-- ==== Sys2Proof/Word.lean ====
section
/-! DEFINITION. The widths of RMAP-CORE: bytes of packets and of local memory, and 32-bit register words
(spec/10_state.md R18, spec/00_scope.md R10, R11, R13: every value is unsigned). -/

namespace Sys2Proof

/-- One byte of a packet, of local memory or of a buffer (R11). -/
abbrev Byte := BitVec 8

/-- One host-visible register, a command word, a counter or a local-memory address (R18, R24, R44). -/
abbrev Word := BitVec 32

end Sys2Proof
end

