-- ==== Sys2Proof/Config.lean ====
section
/-! DEFINITION. The implementation parameters of spec/00_scope.md R7, the test configuration CFG-T of R9,
and the bytes the spec leaves unspecified (R35, R36), as constants without a body. -/

namespace Sys2Proof

/-- Which packet shape has no data-length field (R7, R72; 90_conflicts.md C1). -/
inductive DlenOmit where
  /-- The write reply: the value of this hardware (92_eei_decisions.md D13). -/
  | writeReply
  /-- The write command without reply: the other reading of the source. -/
  | writeCmdNoReply
  deriving DecidableEq, Repr

/-- A run of existing local-memory addresses: `base .. base + size - 1`. -/
structure Region where
  base : Nat
  size : Nat
  deriving DecidableEq, Repr

/-- The parameters of R7, one field each, under the spec's names. `mapped` is the predicate MAPPED written as plain
data, the list of the regions whose bytes exist; every predicate on 32-bit addresses is such a list
(`Sys2Proof.Machine.isMapped_of_predicate` in Laws/Memory.lean). -/
structure Config where
  /-- N_TX, the TX ring's capacity. -/
  nTx : Nat
  /-- N_RX, the RX ring's capacity. -/
  nRx : Nat
  /-- C_SLOTS, the number of transaction-log slots. -/
  cSlots : Nat
  /-- MAX_PATH_LEN, the longest destination path. -/
  maxPathLen : Nat
  /-- TX_HDR_BUF, the bytes of each TX header buffer. -/
  txHdrBuf : Nat
  /-- TX_DATA_BUF, the bytes of each TX data buffer. -/
  txDataBuf : Nat
  /-- RX_BUF, the bytes of each RX buffer. -/
  rxBuf : Nat
  /-- DLEN_OMIT. -/
  dlenOmit : DlenOmit
  /-- REPLY_RSVD, true for 1. -/
  replyRsvd : Bool
  /-- MAPPED, as the regions that exist. -/
  mapped : List Region
  /-- MMIO_BASE, the host address of the register window. -/
  mmioBase : Nat
  deriving DecidableEq, Repr

/-- MAX_RPATH_LEN, fixed at 12 (R7, R94). -/
def Config.maxRpathLen : Nat := 12

/-- CFG-T, the configuration of the spec's test vectors (R9). DESIGN CHOICE (log entry 1): it is the configuration
`State.reset` carries; every other configuration is a `State.resetWith`. -/
def Config.cfgT : Config where
  nTx := 2
  nRx := 2
  cSlots := 2
  maxPathLen := 15
  txHdrBuf := 64
  txDataBuf := 256
  rxBuf := 256
  dlenOmit := .writeReply
  replyRsvd := false
  mapped := [⟨0, 0xFFFFFF00⟩]
  mmioBase := 0xFFFFFF00

/-- FREE VALUE (log entry 5): byte `k` of TX header buffer `i` before anything has been written there. R35 leaves it
unspecified. -/
opaque Config.freeTxHdrByte (i k : Nat) : Byte

/-- FREE VALUE (log entry 5): byte `k` of TX data buffer `i` before anything has been written there (R35). -/
opaque Config.freeTxDataByte (i k : Nat) : Byte

/-- FREE VALUE (log entry 5): byte `k` of RX buffer `i` before anything has been written there (R36). -/
opaque Config.freeRxByte (i k : Nat) : Byte

end Sys2Proof
end

