-- ==== Sys2Proof/Syntax.lean ====
section
/-! DEFINITION. The 33 commands of spec/30_encoding.md R64, one constructor per row of the opcode table, with the
immediate fields of R63 at their widths. A field outside its width cannot be written down; what the latched
operands LARG0..LARG2 carry is no part of a command word (R62). -/

namespace Sys2Proof

/-- The RING field: 0 for the TX ring, 1 for the RX ring (R63). -/
inductive Ring where
  | tx
  | rx
  deriving DecidableEq, Repr

inductive Instr where
  /-- CRC8 (R83). -/
  | crc8
  /-- PKT_CLEAR (R84). -/
  | pktClear
  /-- PKT_SET_DST (R85). -/
  | pktSetDst (b : Byte)
  /-- PKT_SET_SRC (R86). -/
  | pktSetSrc (b : Byte)
  /-- PKT_SET_KEY (R87). -/
  | pktSetKey (b : Byte)
  /-- PKT_SET_CMD (R88). -/
  | pktSetCmd (code : BitVec 4)
  /-- PKT_SET_REPLY (R89). -/
  | pktSetReply
  /-- PKT_SET_TID (R90). -/
  | pktSetTid (h : BitVec 16)
  /-- PKT_SET_ADDR (R91). -/
  | pktSetAddr
  /-- PKT_SET_DLEN (R92). -/
  | pktSetDlen
  /-- PKT_SET_PATH (R93). -/
  | pktSetPath (b : Byte)
  /-- PKT_SET_RPATH (R94). -/
  | pktSetRpath (b : Byte)
  /-- PKT_GET (R95). -/
  | pktGet (sel : BitVec 4) (idx : Byte)
  /-- HDR_SIZE (R96). -/
  | hdrSize
  /-- SERIALIZE (R98). -/
  | serialize
  /-- PARSE (R103). -/
  | parse
  /-- TX_INIT (R118). -/
  | txInit
  /-- RX_INIT (R119). -/
  | rxInit
  /-- TX_ENQUEUE (R120). -/
  | txEnqueue (hlen : Byte) (ncl : Byte)
  /-- RX_POLL (R121). -/
  | rxPoll
  /-- RX_FETCH (R122). -/
  | rxFetch
  /-- RX_DROP (R123). -/
  | rxDrop
  /-- DESC_READ (R124); `word` is the WORD bit. -/
  | descRead (idx : BitVec 16) (ring : Ring) (word : Bool)
  /-- RING_STAT (R125); `sel` is the SEL bit. -/
  | ringStat (ring : Ring) (sel : Bool)
  /-- TL_GRAB (R134); `hd` is the HD bit. -/
  | tlGrab (hd : Bool)
  /-- TL_RELEASE (R135). -/
  | tlRelease (id : BitVec 16)
  /-- TL_QUERY (R136); `word` is the WORD bit. -/
  | tlQuery (id : BitVec 16) (word : Bool)
  /-- TL_RESET (R137). -/
  | tlReset
  /-- LINK_LOAD (R138). -/
  | linkLoad
  /-- SUBMIT_WRITE (R140). -/
  | submitWrite
  /-- SUBMIT_READ (R141). -/
  | submitRead
  /-- DRAIN (R142). -/
  | drain
  /-- PENDING_COUNT (R144). -/
  | pendingCount
  deriving DecidableEq, Repr

end Sys2Proof
end

