-- ==== Sys2Proof/WellFormed.lean ====
section
/-! DEFINITION. What the model refuses before a machine runs: configurations outside spec/00_scope.md R7, R8 and
spec/20_memory.md R48, and command words outside the opcode map and the reserved-bit masks of
spec/30_encoding.md R63 to R66. (A command itself, as an `Instr`, is well formed by its types.) -/

namespace Sys2Proof

/-! ### Configurations -/

/-- R7: `1 ≤ N_TX ≤ 65535`. -/
def Config.txRingOk (c : Config) : Bool := 1 ≤ c.nTx && c.nTx ≤ 65535

/-- R7: `1 ≤ N_RX ≤ 65535`. -/
def Config.rxRingOk (c : Config) : Bool := 1 ≤ c.nRx && c.nRx ≤ 65535

/-- R7, R8: `1 ≤ C_SLOTS ≤ min(N_TX, 65535)`. -/
def Config.slotsOk (c : Config) : Bool := 1 ≤ c.cSlots && c.cSlots ≤ c.nTx && c.cSlots ≤ 65535

/-- R7: `MAX_PATH_LEN ≤ 255`. -/
def Config.pathOk (c : Config) : Bool := c.maxPathLen ≤ 255

/-- R7, R8: `15 ≤ TX_HDR_BUF ≤ 255`. -/
def Config.hdrBufOk (c : Config) : Bool := 15 ≤ c.txHdrBuf && c.txHdrBuf ≤ 255

/-- R7: `TX_DATA_BUF ≤ 16777215`. -/
def Config.dataBufOk (c : Config) : Bool := c.txDataBuf ≤ 16777215

/-- R7: `1 ≤ RX_BUF ≤ 16777215`. -/
def Config.rxBufOk (c : Config) : Bool := 1 ≤ c.rxBuf && c.rxBuf ≤ 16777215

/-- R7: MMIO_BASE is a multiple of 256. -/
def Config.baseOk (c : Config) : Bool := c.mmioBase % 256 = 0

/-- R44: MAPPED speaks of the 2^32 addresses of local memory. -/
def Config.mappedOk (c : Config) : Bool := c.mapped.all fun r => r.base + r.size ≤ 2 ^ 32

/-- R48: no address of the register window is mapped. -/
def Config.windowOk (c : Config) : Bool :=
  c.mapped.all fun r => r.size = 0 || r.base + r.size ≤ c.mmioBase || c.mmioBase + 256 ≤ r.base

/-- The checks made at configuration time (R7, R8, R48). -/
def Config.wf (c : Config) : Bool :=
  c.txRingOk && c.rxRingOk && c.slotsOk && c.pathOk && c.hdrBufOk && c.dataBufOk && c.rxBufOk && c.baseOk &&
    c.mappedOk && c.windowOk

/-! ### Command words -/

/-- The immediate formats of R63. -/
inductive Format where
  | n | b8 | c4 | h16 | g | t | d | s | q | f1
  deriving DecidableEq, Repr

/-- The reserved-bit mask of a format over the whole word (R63). -/
def Format.reserved : Format → Word
  | .n => 0x00FFFFFF#32
  | .b8 => 0x00FFFF00#32
  | .c4 => 0x00FFFFF0#32
  | .h16 => 0x00FF0000#32
  | .g => 0x00FFF000#32
  | .t => 0x00FF0000#32
  | .d => 0x00FC0000#32
  | .s => 0x00FFFFFC#32
  | .q => 0x00FE0000#32
  | .f1 => 0x00FFFFFE#32

/-- The opcode map of R64: opcode and format of every command. -/
def opcodeMap : List (Nat × Format) :=
  [(0x01, .n)] ++
  [(0x10, .n), (0x11, .b8), (0x12, .b8), (0x13, .b8), (0x14, .c4), (0x15, .n), (0x16, .h16), (0x17, .n),
   (0x18, .n), (0x19, .b8), (0x1A, .b8), (0x1B, .g)] ++
  [(0x20, .n), (0x21, .n), (0x22, .n)] ++
  [(0x30, .n), (0x31, .n), (0x32, .t), (0x33, .n), (0x34, .n), (0x35, .n), (0x36, .d), (0x37, .s)] ++
  [(0x40, .f1), (0x41, .h16), (0x42, .q), (0x43, .n), (0x44, .n), (0x45, .n), (0x46, .n), (0x47, .n), (0x48, .n)]

/-- R65: a word is one command of the table iff its opcode is in the map and its reserved bits are 0. -/
def wellFormedWord (w : Word) : Bool :=
  match opcodeMap.lookup (w.toNat / 2 ^ 24) with
  | none => false
  | some f => w &&& f.reserved == 0

end Sys2Proof
end

