-- ==== Sys2Proof/Decode.lean ====
section
/-! DEFINITION. The decoder of spec/30_encoding.md R65, total on every 32-bit word, and the encoder written from the
same field tables (R62, R63, R64). -/

namespace Sys2Proof

/-- Why a word is no command (R65). Both kinds finish with E_BADOP. -/
inductive Reject where
  /-- The opcode is not in the table of R64. -/
  | illegalOpcode
  /-- A reserved immediate bit is 1. -/
  | reservedBit
  deriving DecidableEq, Repr

/-- OP, bits 31:24 (R62). -/
def opcodeOf (w : Word) : Byte := w.extractLsb' 24 8

/-- The field of `n` bits of a word whose lowest bit is bit `lo` (R10, R63). -/
def field (w : Word) (lo n : Nat) : BitVec n := w.extractLsb' lo n

/-- One bit of a word, as a flag. -/
def flagOf (w : Word) (i : Nat) : Bool := w.getLsbD i

/-- Accept `i` iff the immediate's bits from `lo` up to bit 23 are 0: these are the reserved bits of a format
whose fields end below `lo` (R63). -/
def ifReservedZero (w : Word) (lo : Nat) (i : Instr) : Except Reject Instr :=
  if field w lo (24 - lo) = 0 then .ok i else .error .reservedBit

/-- The RING bit (R63). -/
def ringOfBit (b : Bool) : Ring := if b then .rx else .tx

/-- The RING bit of a ring (R63). -/
def Ring.bit : Ring → Bool
  | .tx => false
  | .rx => true

/-- R65: every word is one command of the table with its fields, or is rejected by name. -/
def decode (w : Word) : Except Reject Instr :=
  match (opcodeOf w).toNat with
  | 0x01 => ifReservedZero w 0 .crc8
  | 0x10 => ifReservedZero w 0 .pktClear
  | 0x11 => ifReservedZero w 8 (.pktSetDst (field w 0 8))
  | 0x12 => ifReservedZero w 8 (.pktSetSrc (field w 0 8))
  | 0x13 => ifReservedZero w 8 (.pktSetKey (field w 0 8))
  | 0x14 => ifReservedZero w 4 (.pktSetCmd (field w 0 4))
  | 0x15 => ifReservedZero w 0 .pktSetReply
  | 0x16 => ifReservedZero w 16 (.pktSetTid (field w 0 16))
  | 0x17 => ifReservedZero w 0 .pktSetAddr
  | 0x18 => ifReservedZero w 0 .pktSetDlen
  | 0x19 => ifReservedZero w 8 (.pktSetPath (field w 0 8))
  | 0x1A => ifReservedZero w 8 (.pktSetRpath (field w 0 8))
  | 0x1B => ifReservedZero w 12 (.pktGet (field w 0 4) (field w 4 8))
  | 0x20 => ifReservedZero w 0 .hdrSize
  | 0x21 => ifReservedZero w 0 .serialize
  | 0x22 => ifReservedZero w 0 .parse
  | 0x30 => ifReservedZero w 0 .txInit
  | 0x31 => ifReservedZero w 0 .rxInit
  | 0x32 => ifReservedZero w 16 (.txEnqueue (field w 0 8) (field w 8 8))
  | 0x33 => ifReservedZero w 0 .rxPoll
  | 0x34 => ifReservedZero w 0 .rxFetch
  | 0x35 => ifReservedZero w 0 .rxDrop
  | 0x36 => ifReservedZero w 18 (.descRead (field w 0 16) (ringOfBit (flagOf w 16)) (flagOf w 17))
  | 0x37 => ifReservedZero w 2 (.ringStat (ringOfBit (flagOf w 0)) (flagOf w 1))
  | 0x40 => ifReservedZero w 1 (.tlGrab (flagOf w 0))
  | 0x41 => ifReservedZero w 16 (.tlRelease (field w 0 16))
  | 0x42 => ifReservedZero w 17 (.tlQuery (field w 0 16) (flagOf w 16))
  | 0x43 => ifReservedZero w 0 .tlReset
  | 0x44 => ifReservedZero w 0 .linkLoad
  | 0x45 => ifReservedZero w 0 .submitWrite
  | 0x46 => ifReservedZero w 0 .submitRead
  | 0x47 => ifReservedZero w 0 .drain
  | 0x48 => ifReservedZero w 0 .pendingCount
  | _ => .error .illegalOpcode

/-- A command word: the opcode in bits 31:24 above the 24-bit immediate (R62). -/
def commandWord (op : Byte) (imm : BitVec 24) : Word := op ++ imm

/-- A field put into the immediate with its lowest bit at bit `lo` (R63). -/
def place {n : Nat} (v : BitVec n) (lo : Nat) : BitVec 24 := v.setWidth 24 <<< lo

/-- A one-bit field put into the immediate at bit `i` (R63). -/
def placeBit (b : Bool) (i : Nat) : BitVec 24 := place (BitVec.ofBool b) i

/-- The word of a command, its reserved bits 0 (R63, R64). -/
def encode : Instr → Word
  | .crc8 => commandWord 0x01 0
  | .pktClear => commandWord 0x10 0
  | .pktSetDst b => commandWord 0x11 (place b 0)
  | .pktSetSrc b => commandWord 0x12 (place b 0)
  | .pktSetKey b => commandWord 0x13 (place b 0)
  | .pktSetCmd code => commandWord 0x14 (place code 0)
  | .pktSetReply => commandWord 0x15 0
  | .pktSetTid h => commandWord 0x16 (place h 0)
  | .pktSetAddr => commandWord 0x17 0
  | .pktSetDlen => commandWord 0x18 0
  | .pktSetPath b => commandWord 0x19 (place b 0)
  | .pktSetRpath b => commandWord 0x1A (place b 0)
  | .pktGet sel idx => commandWord 0x1B (place idx 4 ||| place sel 0)
  | .hdrSize => commandWord 0x20 0
  | .serialize => commandWord 0x21 0
  | .parse => commandWord 0x22 0
  | .txInit => commandWord 0x30 0
  | .rxInit => commandWord 0x31 0
  | .txEnqueue hlen ncl => commandWord 0x32 (place ncl 8 ||| place hlen 0)
  | .rxPoll => commandWord 0x33 0
  | .rxFetch => commandWord 0x34 0
  | .rxDrop => commandWord 0x35 0
  | .descRead idx ring word => commandWord 0x36 (placeBit word 17 ||| placeBit ring.bit 16 ||| place idx 0)
  | .ringStat ring sel => commandWord 0x37 (placeBit sel 1 ||| placeBit ring.bit 0)
  | .tlGrab hd => commandWord 0x40 (placeBit hd 0)
  | .tlRelease id => commandWord 0x41 (place id 0)
  | .tlQuery id word => commandWord 0x42 (placeBit word 16 ||| place id 0)
  | .tlReset => commandWord 0x43 0
  | .linkLoad => commandWord 0x44 0
  | .submitWrite => commandWord 0x45 0
  | .submitRead => commandWord 0x46 0
  | .drain => commandWord 0x47 0
  | .pendingCount => commandWord 0x48 0

/-- The command this decoder reads from a table row's bits: every command is one 32-bit word, written to `CMD` as one
value (R62), so bit 0 of `w` is bit 0 of the word and bits above `nbits` are 0. -/
def decodeTableWord (nbits w : Nat) : Option Instr :=
  if nbits ≤ 32 ∧ w < 2 ^ nbits then (decode (BitVec.ofNat 32 w)).toOption else none

end Sys2Proof
end

