-- ==== Sys2Proof/Machine/State.lean ====
section
/-! DEFINITION. The state of RMAP-CORE as plain data (spec/10_state.md R15 to R42), with what the spec keeps outside
RMAP-CORE but lets its agents touch (local memory, TXOUT, the packets waiting on the link, what the host reads, the
order of the agents' turns), the reasons a step can stop, and the state after reset (spec/70_reset_and_hazards.md
R164). -/

namespace Sys2Proof.Machine

/-! ### Host-visible registers -/

/-- STATUS.CODE, the completion codes of R148. Values 9 to 15 are never written, so they are no member. -/
inductive Code where
  | ok
  | none
  | eInval
  | eNodesc
  | eParse
  | eExhausted
  | eToobig
  | eBus
  | eBadop
  deriving DecidableEq, Repr

/-- STATUS (R20), read-only: its fields; every other bit reads as 0. -/
structure Status where
  code : Code
  busy : Bool
  warnLong : Bool
  ovr : Bool
  deriving DecidableEq, Repr

/-- CTRL (R22): bits 31:3 read as 0 and are not held. -/
structure Ctrl where
  txie : Bool
  rxie : Bool
  pcrc : Bool
  deriving DecidableEq, Repr

/-- IRQ_STAT (R23): bits 31:2 read as 0 and are not held. -/
structure IrqStat where
  txi : Bool
  rxi : Bool
  deriving DecidableEq, Repr

/-- DRAIN_MODE (R30). -/
inductive DrainMode where
  | none
  | drain
  | pcount
  deriving DecidableEq, Repr

/-! ### The packet builder and the link configuration -/

/-- PKT (R31). `path` holds MAX_PATH_LEN bytes and `rpath` 12; `pathLen` and `rpathLen` say how many are valid. -/
structure Pkt where
  dst : Byte
  src : Byte
  key : Byte
  instr : Byte
  tid : BitVec 16
  addr : Word
  dlen : BitVec 24
  path : List Byte
  pathLen : Byte
  rpath : List Byte
  rpathLen : Byte
  hcrc : Byte
  dcrc : Byte
  deriving DecidableEq, Repr

/-- L, the link configuration (R34). -/
structure LinkCfg where
  dst : Byte
  src : Byte
  key : Byte
  path : List Byte
  pathLen : Byte
  rpath : List Byte
  rpathLen : Byte
  deriving DecidableEq, Repr

/-! ### The descriptor rings -/

/-- TXD[i] (R35). -/
structure TxDesc where
  en : Bool
  wr : Bool
  ie : Bool
  hc : Bool
  dc : Bool
  ncl : Byte
  hlen : Byte
  dlen : BitVec 24
  deriving DecidableEq, Repr

/-- RXD[i] (R36). -/
structure RxDesc where
  en : Bool
  wr : Bool
  ie : Bool
  tr : Bool
  size : BitVec 24
  deriving DecidableEq, Repr

/-- The TX ring: descriptors, buffers, queues and the link's scan pointer (R35, R38, R39). A buffer is the list of its
bytes written so far, which always start at offset 0; the bytes beyond are the free values of Config (log entry 5). -/
structure TxRing where
  desc : List TxDesc
  hdr : List (List Byte)
  data : List (List Byte)
  free : List Nat
  busy : List Nat
  lptr : BitVec 16
  deriving DecidableEq, Repr

/-- The RX ring (R36, R38, R39); its buffers are held as the TX ring's are. -/
structure RxRing where
  desc : List RxDesc
  buf : List (List Byte)
  free : List Nat
  busy : List Nat
  lptr : BitVec 16
  deriving DecidableEq, Repr

/-! ### The transaction log -/

/-- One slot: TL_USED, TL_HD and TL_LADDR (R41). -/
structure Slot where
  used : Bool
  hd : Bool
  laddr : Word
  deriving DecidableEq, Repr

/-! ### The agents' turns -/

/-- The width of a host access to the register window (R19). -/
inductive AccessWidth where
  | w8 | w16 | w32 | w64
  deriving DecidableEq, Repr

/-- One step of HOST: an access to the register window at a host address, or to local memory, which it owns
(R6, R18, R44, R67). -/
inductive HostAct where
  | readReg (addr : Nat) (width : AccessWidth)
  | writeReg (addr : Nat) (width : AccessWidth) (v : Word)
  | readMem (addr : Nat) (n : Nat)
  | writeMem (addr : Nat) (bytes : List Byte)
  deriving DecidableEq, Repr

/-- What happens next: a step of one of the four agents of R6, the arrival of a packet on the link, which is the
environment's doing (R109), or the reset event of R163. -/
inductive Turn where
  | host (act : HostAct)
  | core
  | linkTx
  | linkRx
  | arrive (p : List Byte)
  | reset
  deriving DecidableEq, Repr

/-- The whole machine. -/
structure State where
  /-- The configuration (R7); no step changes it. -/
  cfg : Config
  /-- STATUS (R20). -/
  status : Status
  /-- RESULT (R21). -/
  result : Word
  /-- ARG0 (R18). -/
  arg0 : Word
  /-- ARG1 (R18). -/
  arg1 : Word
  /-- ARG2 (R18). -/
  arg2 : Word
  /-- CTRL (R22). -/
  ctrl : Ctrl
  /-- IRQ_STAT (R23). -/
  irq : IrqStat
  /-- TX_BYTES (R24). -/
  txBytes : Word
  /-- RX_BYTES (R24). -/
  rxBytes : Word
  /-- PARSE_ERRS (R18, R24). -/
  parseErrs : Word
  /-- UNMATCHED (R18, R24). -/
  unmatched : Word
  /-- LONG_WARNS (R18, R24). -/
  longWarns : Word
  /-- BUS_ERRS (R18, R24). -/
  busErrs : Word
  /-- LCMD, the latched command word (R27). -/
  lcmd : Word
  /-- LARG0 (R27). -/
  larg0 : Word
  /-- LARG1 (R27). -/
  larg1 : Word
  /-- LARG2 (R27). -/
  larg2 : Word
  /-- DRAIN_MODE (R30). -/
  drainMode : DrainMode
  /-- DRAIN_N (R30). -/
  drainN : Word
  /-- PKT (R31). -/
  pkt : Pkt
  /-- L (R34). -/
  link : LinkCfg
  /-- The TX ring (R35, R38, R39). -/
  tx : TxRing
  /-- The RX ring (R36, R38, R39). -/
  rx : RxRing
  /-- The slot table (R41). -/
  slots : List Slot
  /-- PEND, read as PENDING (R25, R41). -/
  pend : Word
  /-- LMEM, outside RMAP-CORE (R44): the bytes that differ from the byte an unlisted address reads as, by rising
  address. -/
  lmem : List Host.Cell
  /-- TXOUT, the packets LINK_TX has sent, oldest first: an observation, not hardware state (R108). -/
  txOut : List (List Byte)
  /-- The packets that wait on the link, in arrival order (R109); each arrival adds one at the end. -/
  rxWire : List (List Byte)
  /-- The values the host's register reads returned, oldest first: an observation of the model's. -/
  hostRegs : List Word
  /-- The byte sequences the host's memory reads returned, oldest first: an observation of the model's. -/
  hostMem : List (List Byte)
  /-- The turns to come (R6, R55): the environment's input. -/
  sched : List Turn
  /-- The turns that follow once `sched` has ended, over and over without end: the environment's input (R55, R176). -/
  again : List Turn
  deriving DecidableEq, Repr

/-! ### Why a step can stop -/

/-- RMAP-CORE itself has no fault: every failure of a command is a completion code (R152). -/
inductive Fault where
  /-- Raised by HOST (`hostStep`) when it accesses a local-memory range of which a byte does not exist (R44). Safe: the
  spec gives such an access no effect. -/
  | hostUnmapped (addr : Nat)
  deriving DecidableEq, Repr

inductive Refusal where
  /-- Raised by an arm of `exec` for a command that has no meaning yet. Safe. -/
  | notModelled (mnemonic : String)
  /-- Raised by HOST (`hostStep`) for a register access that is not 32 bits wide at an offset divisible by 4: R19
  refuses it, "it has no step". Safe. -/
  | hostAccessForm
  /-- Raised by HOST (`hostStep`) for a register access outside the 256-byte window of R18: it does not reach
  RMAP-CORE. Safe. -/
  | hostOutsideWindow
  /-- Raised by LINK_RX (`linkRxStep`) for a packet longer than 2^24 - 1 bytes, which R109 says no link delivers.
  Safe. -/
  | packetTooLong
  /-- Raised by `configure` for a configuration that breaks R7, R8 or R48. Safe. -/
  | badConfig
  deriving DecidableEq, Repr

/-! ### Reset -/

/-- PKT after reset and after PKT_CLEAR: every field 0, path bytes included (R31, R164). -/
def Pkt.reset (c : Config) : Pkt where
  dst := 0
  src := 0
  key := 0
  instr := 0
  tid := 0
  addr := 0
  dlen := 0
  path := List.replicate c.maxPathLen 0
  pathLen := 0
  rpath := List.replicate Config.maxRpathLen 0
  rpathLen := 0
  hcrc := 0
  dcrc := 0

/-- L after reset (R34, R164). -/
def LinkCfg.reset (c : Config) : LinkCfg where
  dst := 0
  src := 0
  key := 0
  path := List.replicate c.maxPathLen 0
  pathLen := 0
  rpath := List.replicate Config.maxRpathLen 0
  rpathLen := 0

/-- A TX descriptor after reset: WR on the ring's last one only (R35, R164). -/
def TxDesc.reset (last : Bool) : TxDesc where
  en := false
  wr := last
  ie := false
  hc := false
  dc := false
  ncl := 0
  hlen := 0
  dlen := 0

/-- An RX descriptor after reset (R36, R164). -/
def RxDesc.reset (last : Bool) : RxDesc where
  en := false
  wr := last
  ie := false
  tr := false
  size := 0

/-- The TX ring after reset: every descriptor free, nothing written in the buffers (R35, R38, R39, R164). -/
def TxRing.reset (c : Config) : TxRing where
  desc := (List.range c.nTx).map fun i => TxDesc.reset (i + 1 == c.nTx)
  hdr := List.replicate c.nTx []
  data := List.replicate c.nTx []
  free := List.range c.nTx
  busy := []
  lptr := 0

/-- The RX ring after reset: every descriptor free, none armed (R36, R38, R39, R164). -/
def RxRing.reset (c : Config) : RxRing where
  desc := (List.range c.nRx).map fun i => RxDesc.reset (i + 1 == c.nRx)
  buf := List.replicate c.nRx []
  free := List.range c.nRx
  busy := []
  lptr := 0

/-- An idle slot (R41, R133). -/
def Slot.idle : Slot where
  used := false
  hd := false
  laddr := 0

/-- The machine right after reset under a configuration (R164), before anything outside it has happened: no byte of
local memory listed, nothing sent, nothing waiting, no turn chosen (log entries 2, 3, 4). -/
def State.resetWith (c : Config) : State where
  cfg := c
  status := ⟨.ok, false, false, false⟩
  result := 0
  arg0 := 0
  arg1 := 0
  arg2 := 0
  ctrl := ⟨false, false, false⟩
  irq := ⟨false, false⟩
  txBytes := 0
  rxBytes := 0
  parseErrs := 0
  unmatched := 0
  longWarns := 0
  busErrs := 0
  lcmd := 0
  larg0 := 0
  larg1 := 0
  larg2 := 0
  drainMode := .none
  drainN := 0
  pkt := Pkt.reset c
  link := LinkCfg.reset c
  tx := TxRing.reset c
  rx := RxRing.reset c
  slots := List.replicate c.cSlots Slot.idle
  pend := 0
  lmem := []
  txOut := []
  rxWire := []
  hostRegs := []
  hostMem := []
  sched := []
  again := []

/-- The machine right after reset under CFG-T (R9, R164; log entry 1). -/
def State.reset : State := State.resetWith Config.cfgT

end Sys2Proof.Machine
end

