-- ==== Sys2Proof/Machine/Operands.lean ====
section
/-! DEFINITION. Byte sequences and their big-endian readings (spec/00_scope.md R11), buffers of fixed size, and the
operands a command takes from the latched registers (spec/10_state.md R27). -/

namespace Sys2Proof.Machine

/-! ### Byte sequences (R11) -/

/-- Byte `i` of a sequence; the rules read only bytes inside it. -/
def byteAt (s : List Byte) (i : Nat) : Byte := s.getD i 0

/-- `s[a .. a+n)`. -/
def slice (s : List Byte) (a n : Nat) : List Byte := (s.drop a).take n

/-- be16: the most significant byte first. -/
def be16 (v : BitVec 16) : List Byte := [v.extractLsb' 8 8, v.extractLsb' 0 8]

/-- be24. -/
def be24 (v : BitVec 24) : List Byte := [v.extractLsb' 16 8, v.extractLsb' 8 8, v.extractLsb' 0 8]

/-- be32. -/
def be32 (v : Word) : List Byte :=
  [v.extractLsb' 24 8, v.extractLsb' 16 8, v.extractLsb' 8 8, v.extractLsb' 0 8]

/-- rd_be16. -/
def rdBe16 (s : List Byte) (i : Nat) : BitVec 16 := byteAt s i ++ byteAt s (i + 1)

/-- rd_be24. -/
def rdBe24 (s : List Byte) (i : Nat) : BitVec 24 := byteAt s i ++ byteAt s (i + 1) ++ byteAt s (i + 2)

/-- rd_be32. -/
def rdBe32 (s : List Byte) (i : Nat) : Word :=
  byteAt s i ++ byteAt s (i + 1) ++ byteAt s (i + 2) ++ byteAt s (i + 3)

/-! ### Buffers -/

/-- The first `n` bytes of a buffer of which `written` is known and byte `k` is `dflt k` beyond. -/
def bufRead (dflt : Nat → Byte) (written : List Byte) (n : Nat) : List Byte :=
  (List.range n).map fun k => written.getD k (dflt k)

/-- `B[0 .. |s|) <- s`: the later bytes of the buffer stay. -/
def bufWrite (s written : List Byte) : List Byte := s ++ written.drop s.length

/-- The valid destination path bytes of a path buffer (R31). -/
def pathBytes (path : List Byte) (len : Byte) : List Byte := bufRead (fun _ => 0) path len.toNat

/-! ### Words made of fields (R10) -/

/-- A field of a register, its lowest bit at bit `lo`. -/
def fieldAt {n : Nat} (v : BitVec n) (lo : Nat) : Word := v.setWidth 32 <<< lo

/-- A one-bit field of a register, at bit `i`. -/
def flagAt (b : Bool) (i : Nat) : Word := fieldAt (BitVec.ofBool b) i

/-! ### Latched operands (R27) -/

/-- LARG0 as an address or a length: unsigned (R10). -/
def State.a0 (s : State) : Nat := s.larg0.toNat

/-- LARG1 as an address or a length. -/
def State.a1 (s : State) : Nat := s.larg1.toNat

/-- LARG2 as an address or a length. -/
def State.a2 (s : State) : Nat := s.larg2.toNat

/-- A size or count as a register value (R13: modulo 2^32). -/
def wordOfNat (n : Nat) : Word := BitVec.ofNat 32 n

end Sys2Proof.Machine
end

