-- ==== Sys2Proof/Machine/Flags.lean ====
section
/-! DEFINITION. Status and control: the completion codes, `finish`, and STATUS, CTRL and IRQ_STAT as the words software
reads and writes (spec/10_state.md R20, R22, R23, R29; spec/60_exceptions.md R148, R154). -/

namespace Sys2Proof.Machine

/-- The value of a completion code (R148). -/
def Code.value : Code → BitVec 4
  | .ok => 0
  | .none => 1
  | .eInval => 2
  | .eNodesc => 3
  | .eParse => 4
  | .eExhausted => 5
  | .eToobig => 6
  | .eBus => 7
  | .eBadop => 8

/-- STATUS as software reads it (R20): OVR, WARN_LONG, BUSY in bits 10, 9, 8 and CODE in bits 3:0. -/
def Status.word (t : Status) : Word :=
  flagAt t.ovr 10 ||| flagAt t.warnLong 9 ||| flagAt t.busy 8 ||| fieldAt t.code.value 0

/-- CTRL as software reads it (R22). -/
def Ctrl.word (c : Ctrl) : Word :=
  flagAt c.pcrc 2 ||| flagAt c.rxie 1 ||| flagAt c.txie 0

/-- CTRL after a host write (R22): writes to bits 31:3 are ignored. -/
def Ctrl.ofWord (v : Word) : Ctrl where
  txie := v.getLsbD 0
  rxie := v.getLsbD 1
  pcrc := v.getLsbD 2

/-- IRQ_STAT as software reads it (R23). -/
def IrqStat.word (q : IrqStat) : Word := flagAt q.rxi 1 ||| flagAt q.txi 0

/-- IRQ_STAT after a host write: each bit written as 1 is cleared, the others stay (R23). -/
def IrqStat.clear (q : IrqStat) (v : Word) : IrqStat where
  txi := q.txi && !v.getLsbD 0
  rxi := q.rxi && !v.getLsbD 1

/-- The interrupt output IRQ (R23, R154). -/
def State.irqLine (s : State) : Bool := s.irq.txi || s.irq.rxi

/-- `finish(code)` (R12, R29): OVR and WARN_LONG stay. -/
def finish (c : Code) (s : State) : State :=
  { s with status := { s.status with code := c, busy := false }, drainMode := .none }

/-- `finish(code, v)` (R12). -/
def finishWith (c : Code) (v : Word) (s : State) : State := finish c { s with result := v }

end Sys2Proof.Machine
end

