-- ==== Sys2Proof/Machine/Ops.lean ====
section
/-! DEFINITION. The operations the commands and the link agents share: local memory (spec/20_memory.md R44 to R47), the
ring procedures (spec/42_transport.md R106, R112 to R116, R118, R119) and the slot procedures (spec/43_translog.md
R130 to R132). RMAP-CORE takes no exception and returns from none (spec/60_exceptions.md R152): the one operation that
ends a command, with or without an error, is `finish` in Flags.lean. -/

namespace Sys2Proof.Machine

/-! ### Local memory -/

/-- MAPPED(a) (R7, R44). -/
def isMapped (c : Config) (a : Nat) : Bool := c.mapped.any fun r => r.base ≤ a && a < r.base + r.size

/-- RangeOK(a, n) (R47): no wrap past 2^32 - 1, and every byte exists. -/
def rangeOK (c : Config) (a n : Nat) : Bool :=
  n == 0 || (a + n ≤ 2 ^ 32 && (List.range n).all fun k => isMapped c (a + k))

/-- What a byte of local memory that nothing has written reads as. DESIGN CHOICE (log entry 2): the spec gives LMEM no
power-on contents; its test vectors start from all zero. -/
def Memory.unlisted : Byte := 0

/-- One byte of local memory. -/
def Memory.readByte : List Host.Cell → Nat → Byte
  | [], _ => Memory.unlisted
  | (k, v) :: rest, a => if k = a then v else Memory.readByte rest a

/-- Write one byte, keeping the list by rising address and free of bytes that read as unlisted. -/
def Memory.writeByte : List Host.Cell → Nat → Byte → List Host.Cell
  | [], a, v => if v = Memory.unlisted then [] else [(a, v)]
  | (k, x) :: rest, a, v =>
    if a < k then (if v = Memory.unlisted then (k, x) :: rest else (a, v) :: (k, x) :: rest)
    else if a = k then (if v = Memory.unlisted then rest else (a, v) :: rest)
    else (k, x) :: Memory.writeByte rest a v

/-- MemRead(a, n) (R45). -/
def Memory.read (m : List Host.Cell) (a n : Nat) : List Byte :=
  (List.range n).map fun k => Memory.readByte m (a + k)

/-- MemWrite(a, |s|, s) (R46). -/
def Memory.write : List Host.Cell → Nat → List Byte → List Host.Cell
  | m, _, [] => m
  | m, a, b :: s => Memory.write (Memory.writeByte m a b) (a + 1) s

/-- The canonical form of local memory: addresses strictly rising, no entry equal to what an unlisted address reads
as. -/
abbrev Memory.wf (m : List Host.Cell) : Prop :=
  m.Pairwise (fun x y => x.1 < y.1) ∧ ∀ x ∈ m, x.2 ≠ Memory.unlisted

/-- The state's own MemRead. -/
def State.memRead (s : State) (a n : Nat) : List Byte := Memory.read s.lmem a n

/-- The state's own MemWrite. -/
def State.memWrite (s : State) (a : Nat) (bytes : List Byte) : State :=
  { s with lmem := Memory.write s.lmem a bytes }

/-- RangeOK under the machine's configuration. -/
def State.rangeOK (s : State) (a n : Nat) : Bool := Machine.rangeOK s.cfg a n

/-! ### The TX ring -/

/-- TXD[i]; an index outside the ring is no descriptor and reads as not enabled. -/
def TxRing.at (r : TxRing) (i : Nat) : TxDesc := r.desc.getD i (TxDesc.reset false)

/-- TXH[i][0 .. n). -/
def TxRing.hdrBytes (r : TxRing) (i n : Nat) : List Byte := bufRead (Config.freeTxHdrByte i) (r.hdr.getD i []) n

/-- TXB[i][0 .. n). -/
def TxRing.dataBytes (r : TxRing) (i n : Nat) : List Byte := bufRead (Config.freeTxDataByte i) (r.data.getD i []) n

/-- The descriptor the link serves after `i`, whose WR flag is `wr` (R106). -/
def nextPtr (i : BitVec 16) (wr : Bool) : BitVec 16 := if wr then 0 else i + 1

/-- `reclaim_tx()` (R112): the drained descriptors at the head of the busy queue go to the tail of the free queue, in
order, up to the first one still enabled. -/
def txReclaim (r : TxRing) : TxRing :=
  { r with
    free := r.free ++ r.busy.takeWhile fun i => !(r.at i).en
    busy := r.busy.dropWhile fun i => !(r.at i).en }

/-- `tx_fill(h, ncl, x)` on the ring (R113): the head of the free queue takes the header, the data and the flags, is
enabled and goes to the tail of the busy queue. `ie` is CTRL.TXIE. -/
def txFill (r : TxRing) (h : List Byte) (ncl : Byte) (x : List Byte) (ie : Bool) : TxRing :=
  match r.free with
  | [] => r
  | i :: rest =>
    { r with
      desc := r.desc.set i
        { r.at i with
          en := true, ie := ie, hc := true, dc := !x.isEmpty, ncl := ncl
          hlen := BitVec.ofNat 8 h.length, dlen := BitVec.ofNat 24 x.length }
      hdr := r.hdr.set i (bufWrite h (r.hdr.getD i []))
      data := r.data.set i (bufWrite x (r.data.getD i []))
      free := rest
      busy := r.busy ++ [i] }

/-- `tx_fill` with its byte count (R113, R24). -/
def State.txFill (s : State) (h : List Byte) (ncl : Byte) (x : List Byte) : State :=
  { s with
    tx := Machine.txFill s.tx h ncl x s.ctrl.txie
    txBytes := s.txBytes + wordOfNat h.length + wordOfNat x.length }

/-- `reclaim_tx()` on the state. -/
def State.txReclaim (s : State) : State := { s with tx := Machine.txReclaim s.tx }

/-- TX_INIT's ring (R118): the arena's bytes stay. -/
def txInit (n : Nat) (r : TxRing) : TxRing :=
  { r with
    desc := (List.range n).map fun i =>
      { en := false, wr := i + 1 == n, ie := false, hc := false, dc := false, ncl := 0, hlen := 0, dlen := 0 }
    free := List.range n
    busy := []
    lptr := 0 }

/-! ### The RX ring -/

/-- RXD[i]; an index outside the ring is no descriptor and reads as not enabled. -/
def RxRing.at (r : RxRing) (i : Nat) : RxDesc := r.desc.getD i (RxDesc.reset false)

/-- RXB[i][0 .. n). -/
def RxRing.bytes (r : RxRing) (i n : Nat) : List Byte := bufRead (Config.freeRxByte i) (r.buf.getD i []) n

/-- The descriptor at the head of the busy queue, when `rx_ready()` holds (R115). -/
def rxHead (r : RxRing) : Option Nat :=
  match r.busy with
  | [] => none
  | i :: _ => if (r.at i).en then none else some i

/-- `rearm_rx()` (R116): the head of the busy queue goes through the free queue; the free queue's head is cleared,
enabled and goes to the tail of the busy queue. `ie` is CTRL.RXIE. -/
def rxRearm (r : RxRing) (ie : Bool) : RxRing :=
  match r.busy with
  | [] => r
  | i :: busy =>
    match r.free ++ [i] with
    | [] => r
    | j :: free =>
      { r with
        desc := r.desc.set j { r.at j with size := 0, tr := false, ie := ie, en := true }
        free := free
        busy := busy ++ [j] }

/-- `rearm_rx()` on the state. -/
def State.rxRearm (s : State) : State := { s with rx := Machine.rxRearm s.rx s.ctrl.rxie }

/-- RX_INIT's first part (R119): every descriptor cleared and free; the arena's bytes stay. -/
def rxClear (n : Nat) (r : RxRing) : RxRing :=
  { r with
    desc := (List.range n).map fun i => { en := false, wr := i + 1 == n, ie := false, tr := false, size := 0 }
    free := List.range n
    busy := []
    lptr := 0 }

/-- RX_INIT's loop (R119): arm the descriptors of the free queue, from its head, until it is empty. -/
def rxArmAll (ie : Bool) : List Nat → RxRing → RxRing
  | [], r => r
  | j :: free, r =>
    rxArmAll ie free
      { r with
        desc := r.desc.set j { r.at j with ie := ie, en := true }
        free := free
        busy := r.busy ++ [j] }

/-- RX_INIT's ring (R119). -/
def rxInit (n : Nat) (ie : Bool) (r : RxRing) : RxRing := rxArmAll ie (rxClear n r).free (rxClear n r)

/-- The RESULT of RX_POLL, RX_FETCH and RX_DROP (R121, R122, R123): TR in bit 31, SIZE in bits 23:0. -/
def rxResult (d : RxDesc) : Word := flagAt d.tr 31 ||| fieldAt d.size 0

/-! ### Packed descriptor words (R37) -/

/-- A TX descriptor's packed word 0 or 1. -/
def TxDesc.packed (d : TxDesc) (word : Bool) : Word :=
  if word then fieldAt d.dlen 0
  else
    flagAt d.en 0 ||| flagAt d.wr 1 ||| flagAt d.ie 2 ||| flagAt d.hc 3 ||| flagAt d.dc 4 ||| fieldAt d.ncl 8 |||
      fieldAt d.hlen 16

/-- An RX descriptor's packed word 0 or 1. -/
def RxDesc.packed (d : RxDesc) (word : Bool) : Word :=
  if word then fieldAt d.size 0
  else flagAt d.en 0 ||| flagAt d.wr 1 ||| flagAt d.ie 2 ||| flagAt d.tr 5

/-- RING_STAT's word (R125): with SEL 0 the lengths of the busy and free queues, with SEL 1 the link pointer and the
head of the busy queue, 0xFFFF when that is empty. -/
def ringStatWord (free busy : List Nat) (lptr : BitVec 16) (sel : Bool) : Word :=
  if sel then
    fieldAt lptr 16 ||| (match busy with | [] => 0x0000FFFF#32 | i :: _ => fieldAt (BitVec.ofNat 16 i) 0)
  else fieldAt (BitVec.ofNat 16 busy.length) 16 ||| fieldAt (BitVec.ofNat 16 free.length) 0

/-! ### The slot table -/

/-- Slot `j`; an index outside the table is no slot and reads as idle. -/
def State.slot (s : State) (j : Nat) : Slot := s.slots.getD j Slot.idle

/-- `match(t)` (R130). -/
def State.slotMatch (s : State) (t : Nat) : Bool := t < s.cfg.cSlots && (s.slot t).used

/-- `grab(hd, a)` (R131): the lowest free slot, marked in use with its address; `none` when the table is full. -/
def State.grab (s : State) (hd : Bool) (a : Word) : Option (Nat × State) :=
  match s.slots.findIdx? fun e => !e.used with
  | none => none
  | some j => some (j, { s with slots := s.slots.set j ⟨true, hd, a⟩, pend := s.pend + 1 })

/-- `release(j)` (R132): nothing on a free or out-of-range id. -/
def State.release (s : State) (j : Nat) : State :=
  if j < s.cfg.cSlots && (s.slot j).used then
    { s with slots := s.slots.set j ⟨false, false, 0⟩, pend := s.pend - 1 }
  else s

/-- `release` of every slot, in the order 0, 1, .. (R137). -/
def State.releaseAll (s : State) : State := (List.range s.cfg.cSlots).foldl State.release s

end Sys2Proof.Machine
end

