-- ==== Sys2Proof/Machine/Wire.lean ====
section
/-! DEFINITION. The RMAP packet on the wire: the CRC (spec/40_crc.md R79, R80), the instruction byte and its shape
predicates (spec/30_encoding.md R70 to R74), serialization (spec/41_codec.md R97) and parsing (R99, R100). -/

namespace Sys2Proof.Machine

/-! ### CRC8 -/

/-- The rows of CRC_T (R80). -/
def crcRows : List (List Byte) :=
  [[0x00, 0x91, 0xE3, 0x72, 0x07, 0x96, 0xE4, 0x75, 0x0E, 0x9F, 0xED, 0x7C, 0x09, 0x98, 0xEA, 0x7B]] ++
  [[0x1C, 0x8D, 0xFF, 0x6E, 0x1B, 0x8A, 0xF8, 0x69, 0x12, 0x83, 0xF1, 0x60, 0x15, 0x84, 0xF6, 0x67]] ++
  [[0x38, 0xA9, 0xDB, 0x4A, 0x3F, 0xAE, 0xDC, 0x4D, 0x36, 0xA7, 0xD5, 0x44, 0x31, 0xA0, 0xD2, 0x43]] ++
  [[0x24, 0xB5, 0xC7, 0x56, 0x23, 0xB2, 0xC0, 0x51, 0x2A, 0xBB, 0xC9, 0x58, 0x2D, 0xBC, 0xCE, 0x5F]] ++
  [[0x70, 0xE1, 0x93, 0x02, 0x77, 0xE6, 0x94, 0x05, 0x7E, 0xEF, 0x9D, 0x0C, 0x79, 0xE8, 0x9A, 0x0B]] ++
  [[0x6C, 0xFD, 0x8F, 0x1E, 0x6B, 0xFA, 0x88, 0x19, 0x62, 0xF3, 0x81, 0x10, 0x65, 0xF4, 0x86, 0x17]] ++
  [[0x48, 0xD9, 0xAB, 0x3A, 0x4F, 0xDE, 0xAC, 0x3D, 0x46, 0xD7, 0xA5, 0x34, 0x41, 0xD0, 0xA2, 0x33]] ++
  [[0x54, 0xC5, 0xB7, 0x26, 0x53, 0xC2, 0xB0, 0x21, 0x5A, 0xCB, 0xB9, 0x28, 0x5D, 0xCC, 0xBE, 0x2F]] ++
  [[0xE0, 0x71, 0x03, 0x92, 0xE7, 0x76, 0x04, 0x95, 0xEE, 0x7F, 0x0D, 0x9C, 0xE9, 0x78, 0x0A, 0x9B]] ++
  [[0xFC, 0x6D, 0x1F, 0x8E, 0xFB, 0x6A, 0x18, 0x89, 0xF2, 0x63, 0x11, 0x80, 0xF5, 0x64, 0x16, 0x87]] ++
  [[0xD8, 0x49, 0x3B, 0xAA, 0xDF, 0x4E, 0x3C, 0xAD, 0xD6, 0x47, 0x35, 0xA4, 0xD1, 0x40, 0x32, 0xA3]] ++
  [[0xC4, 0x55, 0x27, 0xB6, 0xC3, 0x52, 0x20, 0xB1, 0xCA, 0x5B, 0x29, 0xB8, 0xCD, 0x5C, 0x2E, 0xBF]] ++
  [[0x90, 0x01, 0x73, 0xE2, 0x97, 0x06, 0x74, 0xE5, 0x9E, 0x0F, 0x7D, 0xEC, 0x99, 0x08, 0x7A, 0xEB]] ++
  [[0x8C, 0x1D, 0x6F, 0xFE, 0x8B, 0x1A, 0x68, 0xF9, 0x82, 0x13, 0x61, 0xF0, 0x85, 0x14, 0x66, 0xF7]] ++
  [[0xA8, 0x39, 0x4B, 0xDA, 0xAF, 0x3E, 0x4C, 0xDD, 0xA6, 0x37, 0x45, 0xD4, 0xA1, 0x30, 0x42, 0xD3]] ++
  [[0xB4, 0x25, 0x57, 0xC6, 0xB3, 0x22, 0x50, 0xC1, 0xBA, 0x2B, 0x59, 0xC8, 0xBD, 0x2C, 0x5E, 0xCF]]

/-- CRC_T[i]: row `i / 16`, column `i mod 16` (R80). -/
def crcTable (i : Byte) : Byte := (crcRows.getD (i.toNat / 16) []).getD (i.toNat % 16) 0

/-- `crc8_from(c, s)` (R79). -/
def crc8From : Byte → List Byte → Byte
  | c, [] => c
  | c, b :: s => crc8From (crcTable (c ^^^ b)) s

/-- `crc8(s)` (R79). -/
def crc8 (s : List Byte) : Byte := crc8From 0 s

/-! ### The instruction byte -/

/-- RSV, bit 7 (R70). -/
def isReservedIb (ib : Byte) : Bool := ib.getLsbD 7

/-- is_cmd (R72). -/
def isCmd (ib : Byte) : Bool := ib.getLsbD 6

/-- is_write (R72). -/
def isWrite (ib : Byte) : Bool := ib.getLsbD 5

/-- reply_req (R72). -/
def replyReq (ib : Byte) : Bool := ib.getLsbD 3

/-- The command code `INSTR[5:2]` (R70). -/
def codeOf (ib : Byte) : BitVec 4 := ib.extractLsb' 2 4

/-- RAL, the reply address length `INSTR[1:0]` (R70). -/
def ralOf (ib : Byte) : BitVec 2 := ib.extractLsb' 0 2

/-- LEGAL (R71). -/
def legalCode (c : BitVec 4) : Bool :=
  [0x2#4, 0x3#4, 0x7#4, 0x8#4, 0x9#4, 0xA#4, 0xB#4, 0xC#4, 0xD#4, 0xE#4, 0xF#4].contains c

/-- omits_dlen (R72, R73). -/
def omitsDlen (c : Config) (ib : Byte) : Bool :=
  match c.dlenOmit with
  | .writeReply => !isCmd ib && isWrite ib
  | .writeCmdNoReply => isCmd ib && isWrite ib && !replyReq ib

/-- has_rsvd (R72). -/
def hasRsvd (c : Config) (ib : Byte) : Bool := c.replyRsvd && !isCmd ib && !omitsDlen c ib

/-- base(ib) (R74). -/
def baseLen (c : Config) (ib : Byte) : Nat :=
  7 + (if isCmd ib then 5 else 0) + (if hasRsvd c ib then 1 else 0) + (if omitsDlen c ib then 0 else 3)

/-! ### Serialization -/

/-- `ser(p)` (R97). -/
def ser (c : Config) (p : Pkt) : List Byte :=
  pathBytes p.path p.pathLen ++ [p.dst, 0x01, p.instr, p.key] ++ pathBytes p.rpath p.rpathLen ++ [p.src] ++
    be16 p.tid ++ (if isCmd p.instr then [0x00] ++ be32 p.addr else []) ++
    (if hasRsvd c p.instr then [0x00] else []) ++ (if omitsDlen c p.instr then [] else be24 p.dlen)

/-- The header's length (R96): path, reply path and base. -/
def headerSize (c : Config) (p : Pkt) : Nat := p.pathLen.toNat + p.rpathLen.toNat + baseLen c p.instr

/-! ### Parsing -/

/-- What `prs` returns (R99). -/
structure Parsed where
  dst : Byte
  ib : Byte
  key : Byte
  src : Byte
  tid : BitVec 16
  addr : Word
  dlen : BitVec 24
  rl : Nat
  rpath : List Byte
  hdrLen : Nat
  hcrc : Byte
  dcrc : Byte
  payload : List Byte
  need : Nat
  long : Bool
  deriving DecidableEq, Repr

/-- The reply path's length in a packet with instruction byte `ib` (R99). -/
def parsedRpathLen (ib : Byte) : Nat := if isCmd ib then 4 * (ralOf ib).toNat else 0

/-- The offset after the transaction id, where `src` stands at `4 + rl` (R99). -/
def offsetAfterTid (ib : Byte) : Nat := 4 + parsedRpathLen ib + 3

/-- The offset of the data-length field, or of the header CRC where there is none (R99). -/
def offsetOfDlen (c : Config) (ib : Byte) : Nat :=
  offsetAfterTid ib + (if isCmd ib then 5 else 0) + (if hasRsvd c ib then 1 else 0)

/-- H, the offset of the header CRC byte (R99). -/
def offsetOfHcrc (c : Config) (ib : Byte) : Nat := offsetOfDlen c ib + (if omitsDlen c ib then 0 else 3)

/-- The data length of a packet (R99). -/
def parsedDlen (c : Config) (b : List Byte) : BitVec 24 :=
  if omitsDlen c (byteAt b 2) then 0 else rdBe24 b (offsetOfDlen c (byteAt b 2))

/-- The extraction of R99, for a sequence that passes the checks of R100. -/
def prsFields (c : Config) (b : List Byte) : Parsed :=
  let ib := byteAt b 2
  let rl := parsedRpathLen ib
  let h := offsetOfHcrc c ib
  let dlen := parsedDlen c b
  let need := if dlen = 0 then h + 1 else h + 1 + dlen.toNat + 1
  { dst := byteAt b 0
    ib := ib
    key := byteAt b 3
    src := byteAt b (4 + rl)
    tid := rdBe16 b (4 + rl + 1)
    addr := if isCmd ib then rdBe32 b (offsetAfterTid ib + 1) else 0
    dlen := dlen
    rl := rl
    rpath := slice b 4 rl
    hdrLen := h
    hcrc := byteAt b h
    dcrc := if dlen = 0 then 0 else byteAt b (h + 1 + dlen.toNat)
    payload := slice b (h + 1) dlen.toNat
    need := need
    long := need < b.length }

/-- The checks of R100, by what they find wrong. -/
inductive ParseFail where
  /-- Check 1: wrong or missing protocol id. -/
  | protocolId
  /-- Check 2: malformed instruction byte. -/
  | instruction
  /-- Check 3: shorter than the minimum header. -/
  | short
  /-- Check 4: the reply path does not fit. -/
  | replyPath
  /-- Check 5: the data and its CRC do not fit. -/
  | data
  /-- Check 6: a CRC mismatch. -/
  | crc
  deriving DecidableEq, Repr

/-- The first check of R100 that fails, `pcrc` being CTRL.PCRC. -/
def prsCheck (c : Config) (pcrc : Bool) (b : List Byte) : Option ParseFail :=
  let ib := byteAt b 2
  let r := prsFields c b
  if b.length < 3 || byteAt b 1 != 0x01 then some .protocolId
  else if isReservedIb ib || !legalCode (codeOf ib) then some .instruction
  else if b.length < baseLen c ib + 1 then some .short
  else if isCmd ib && b.length < baseLen c ib + 4 * (ralOf ib).toNat + 1 then some .replyPath
  else if r.dlen != 0 && b.length < r.hdrLen + 1 + r.dlen.toNat + 1 then some .data
  else if pcrc && (crc8 (slice b 0 r.hdrLen) != r.hcrc || (r.dlen != 0 && crc8 r.payload != r.dcrc)) then some .crc
  else none

/-- `prs(b)` (R99, R100). -/
def prs (c : Config) (pcrc : Bool) (b : List Byte) : Except ParseFail Parsed :=
  match prsCheck c pcrc b with
  | some e => .error e
  | none => .ok (prsFields c b)

end Sys2Proof.Machine
end

