-- ==== Sys2Proof/Machine/Agents.lean ====
section
/-! DEFINITION. The steps of the agents around CORE: HOST's accesses to the register window and to local memory
(spec/10_state.md R18 to R27), the link agents LINK_TX and LINK_RX (spec/42_transport.md R106 to R109), the reset event
(spec/70_reset_and_hazards.md R163), and the check of a configuration (spec/00_scope.md R8). -/

namespace Sys2Proof.Machine

/-! ### The register window -/

/-- The registers of R18. -/
inductive Reg where
  | cmd | status | result | arg0 | arg1 | arg2 | ctrl | irqStat | txBytes | rxBytes | pending | parseErrs | unmatched
  | longWarns | busErrs | cap0 | cap1 | cap2 | cap3 | reserved
  deriving DecidableEq, Repr

/-- The register at a 4-byte-aligned offset of the window (R18). -/
def regAt (off : Nat) : Reg :=
  match off with
  | 0x00 => .cmd
  | 0x04 => .status
  | 0x08 => .result
  | 0x0C => .arg0
  | 0x10 => .arg1
  | 0x14 => .arg2
  | 0x18 => .ctrl
  | 0x1C => .irqStat
  | 0x20 => .txBytes
  | 0x24 => .rxBytes
  | 0x28 => .pending
  | 0x2C => .parseErrs
  | 0x30 => .unmatched
  | 0x34 => .longWarns
  | 0x38 => .busErrs
  | 0x3C => .cap0
  | 0x40 => .cap1
  | 0x44 => .cap2
  | 0x48 => .cap3
  | _ => .reserved

/-- CAP0 (R26). -/
def capWord0 (c : Config) : Word := fieldAt (BitVec.ofNat 16 c.nRx) 16 ||| fieldAt (BitVec.ofNat 16 c.nTx) 0

/-- CAP1 (R26). -/
def capWord1 (c : Config) : Word :=
  fieldAt (BitVec.ofNat 8 c.txHdrBuf) 24 ||| fieldAt (BitVec.ofNat 8 c.maxPathLen) 16 |||
    fieldAt (BitVec.ofNat 16 c.cSlots) 0

/-- CAP2 (R26): bit 24 is DLEN_OMIT, bit 25 REPLY_RSVD. -/
def capWord2 (c : Config) : Word :=
  flagAt c.replyRsvd 25 ||| flagAt (match c.dlenOmit with | .writeReply => false | .writeCmdNoReply => true) 24 |||
    fieldAt (BitVec.ofNat 24 c.txDataBuf) 0

/-- CAP3 (R26). -/
def capWord3 (c : Config) : Word := fieldAt (BitVec.ofNat 24 c.rxBuf) 0

/-- What a host read of a register returns (R18, R19). -/
def regRead (s : State) : Reg → Word
  | .cmd => s.lcmd
  | .status => s.status.word
  | .result => s.result
  | .arg0 => s.arg0
  | .arg1 => s.arg1
  | .arg2 => s.arg2
  | .ctrl => s.ctrl.word
  | .irqStat => s.irq.word
  | .txBytes => s.txBytes
  | .rxBytes => s.rxBytes
  | .pending => s.pend
  | .parseErrs => s.parseErrs
  | .unmatched => s.unmatched
  | .longWarns => s.longWarns
  | .busErrs => s.busErrs
  | .cap0 => capWord0 s.cfg
  | .cap1 => capWord1 s.cfg
  | .cap2 => capWord2 s.cfg
  | .cap3 => capWord3 s.cfg
  | .reserved => 0

/-- A host write of `w` to CMD (R27): accepted while not busy, else discarded with OVR set. -/
def acceptCommand (w : Word) (s : State) : State :=
  if s.status.busy then { s with status := { s.status with ovr := true } }
  else
    { s with
      lcmd := w
      larg0 := s.arg0
      larg1 := s.arg1
      larg2 := s.arg2
      status := { s.status with busy := true, ovr := false, warnLong := false } }

/-- A host write to a register (R18, R19): read-only and reserved ones ignore it. -/
def regWrite (s : State) (v : Word) : Reg → State
  | .cmd => acceptCommand v s
  | .arg0 => { s with arg0 := v }
  | .arg1 => { s with arg1 := v }
  | .arg2 => { s with arg2 := v }
  | .ctrl => { s with ctrl := Ctrl.ofWord v }
  | .irqStat => { s with irq := s.irq.clear v }
  | .txBytes => { s with txBytes := v }
  | .rxBytes => { s with rxBytes := v }
  | .parseErrs => { s with parseErrs := v }
  | .unmatched => { s with unmatched := v }
  | .longWarns => { s with longWarns := v }
  | .busErrs => { s with busErrs := v }
  | .status => s
  | .result => s
  | .pending => s
  | .cap0 => s
  | .cap1 => s
  | .cap2 => s
  | .cap3 => s
  | .reserved => s

/-- The register a host access reaches (R18, R19), or why it has no step. -/
def windowReg (c : Config) (addr : Nat) (width : AccessWidth) : Except Refusal Reg :=
  if addr < c.mmioBase || c.mmioBase + 256 ≤ addr then .error .hostOutsideWindow
  else if width != .w32 || (addr - c.mmioBase) % 4 != 0 then .error .hostAccessForm
  else .ok (regAt (addr - c.mmioBase))

/-- One HOST step. A register read has no side effect (R53); the values read are appended to the model's observation
of the host. -/
def hostStep (act : HostAct) (s : State) : Host.Outcome State Fault Refusal :=
  match act with
  | .readReg addr width =>
    match windowReg s.cfg addr width with
    | .error e => .refused e
    | .ok r => .next { s with hostRegs := s.hostRegs ++ [regRead s r] }
  | .writeReg addr width v =>
    match windowReg s.cfg addr width with
    | .error e => .refused e
    | .ok r => .next (regWrite s v r)
  | .readMem addr n =>
    if s.rangeOK addr n then .next { s with hostMem := s.hostMem ++ [s.memRead addr n] }
    else .fault (.hostUnmapped addr)
  | .writeMem addr bytes =>
    if s.rangeOK addr bytes.length then .next (s.memWrite addr bytes) else .fault (.hostUnmapped addr)

/-! ### The link agents -/

/-- The packet LINK_TX sends from descriptor `i` (R107, R76). -/
def txPacket (r : TxRing) (i : Nat) : List Byte :=
  let d := r.at i
  let h := r.hdrBytes i d.hlen.toNat
  let x := r.dataBytes i d.dlen.toNat
  h ++ (if d.hc then [crc8 (h.drop d.ncl.toNat)] else []) ++ x ++ (if d.dc then [crc8 x] else [])

/-- One LINK_TX step (R107). Where the descriptor at its pointer is not enabled it has no step and waits (R106): the
turn passes and nothing changes. -/
def linkTxStep (s : State) : State :=
  let i := s.tx.lptr.toNat
  let d := s.tx.at i
  if !d.en then s
  else
    { s with
      txOut := s.txOut ++ [txPacket s.tx i]
      irq := { s.irq with txi := s.irq.txi || d.ie }
      tx :=
        { s.tx with
          desc := s.tx.desc.set i { d with en := false }
          lptr := nextPtr s.tx.lptr d.wr } }

/-- One LINK_RX step (R109), for the first packet that waits on the link. Where none waits, or the descriptor at its
pointer is not enabled, it has no step: the turn passes and the packet stays on the link. -/
def linkRxStep (s : State) : Host.Outcome State Fault Refusal :=
  let i := s.rx.lptr.toNat
  let d := s.rx.at i
  match s.rxWire with
  | [] => .next s
  | p :: wire =>
    if !d.en then .next s
    else if p.length > 16777215 then .refused .packetTooLong
    else
      let m := min p.length s.cfg.rxBuf
      .next
        { s with
          rxWire := wire
          irq := { s.irq with rxi := s.irq.rxi || d.ie }
          rx :=
            { s.rx with
              desc := s.rx.desc.set i
                { d with size := BitVec.ofNat 24 m, tr := s.cfg.rxBuf < p.length, en := false }
              buf := s.rx.buf.set i (bufWrite (p.take m) (s.rx.buf.getD i []))
              lptr := nextPtr s.rx.lptr d.wr } }

/-- A packet arrives on the link, behind those that wait there (R109). -/
def arrival (p : List Byte) (s : State) : State := { s with rxWire := s.rxWire ++ [p] }

/-! ### Reset and configuration -/

/-- The reset event (R163): every element of RMAP-CORE's state at its reset value; local memory, TXOUT, the packets on
the link, what the host has read and the turns to come are outside RMAP-CORE and stay. -/
def resetEvent (s : State) : State :=
  { State.resetWith s.cfg with
    lmem := s.lmem, txOut := s.txOut, rxWire := s.rxWire, hostRegs := s.hostRegs, hostMem := s.hostMem
    sched := s.sched, again := s.again }

/-- A machine of a configuration, which is refused where it breaks R7, R8 or R48. -/
def configure (c : Config) : Host.Outcome State Fault Refusal :=
  if c.wf then .next (State.resetWith c) else .refused .badConfig

end Sys2Proof.Machine
end

