-- ==== Sys2Proof/Machine/Codec.lean ====
section
/-! DEFINITION. The packet codec's commands (spec/41_codec.md R84 to R103). Each is one CORE step that ends in
`finish`; its checks stand in the order of its rule (spec/60_exceptions.md R150). -/

namespace Sys2Proof.Machine

/-! ### Builders -/

/-- PKT_CLEAR (R84). -/
def execPktClear (s : State) : Host.Outcome State Fault Refusal :=
  .next <| finish .ok
    { s with
      pkt :=
        { dst := 0, src := 0, key := 0, instr := 0, tid := 0, addr := 0, dlen := 0
          path := List.replicate s.cfg.maxPathLen 0, pathLen := 0
          rpath := List.replicate Config.maxRpathLen 0, rpathLen := 0, hcrc := 0, dcrc := 0 } }

/-- PKT_SET_DST (R85). -/
def execPktSetDst (b : Byte) (s : State) : Host.Outcome State Fault Refusal :=
  .next <| finish .ok { s with pkt := { s.pkt with dst := b } }

/-- PKT_SET_SRC (R86). -/
def execPktSetSrc (b : Byte) (s : State) : Host.Outcome State Fault Refusal :=
  .next <| finish .ok { s with pkt := { s.pkt with src := b } }

/-- PKT_SET_KEY (R87). -/
def execPktSetKey (b : Byte) (s : State) : Host.Outcome State Fault Refusal :=
  .next <| finish .ok { s with pkt := { s.pkt with key := b } }

/-- PKT_SET_CMD (R88): the command direction and the code; RAL is kept. -/
def execPktSetCmd (code : BitVec 4) (s : State) : Host.Outcome State Fault Refusal :=
  .next <|
    if !legalCode code then finish .eInval s
    else finish .ok { s with pkt := { s.pkt with instr := 0#1 ++ 1#1 ++ code ++ ralOf s.pkt.instr } }

/-- PKT_SET_REPLY (R89): the direction bit is cleared. -/
def execPktSetReply (s : State) : Host.Outcome State Fault Refusal :=
  .next <| finish .ok { s with pkt := { s.pkt with instr := s.pkt.instr &&& 0xBF#8 } }

/-- PKT_SET_TID (R90). -/
def execPktSetTid (h : BitVec 16) (s : State) : Host.Outcome State Fault Refusal :=
  .next <| finish .ok { s with pkt := { s.pkt with tid := h } }

/-- PKT_SET_ADDR (R91). -/
def execPktSetAddr (s : State) : Host.Outcome State Fault Refusal :=
  .next <| finish .ok { s with pkt := { s.pkt with addr := s.larg0 } }

/-- PKT_SET_DLEN (R92). -/
def execPktSetDlen (s : State) : Host.Outcome State Fault Refusal :=
  .next <|
    if s.a0 > 0x00FFFFFF then finish .eInval s
    else finish .ok { s with pkt := { s.pkt with dlen := s.larg0.extractLsb' 0 24 } }

/-- PKT_SET_PATH (R93). -/
def execPktSetPath (b : Byte) (s : State) : Host.Outcome State Fault Refusal :=
  .next <|
    if b.toNat > s.cfg.maxPathLen then finish .eInval s
    else if !s.rangeOK s.a0 b.toNat then finish .eBus s
    else finish .ok
      { s with pkt := { s.pkt with path := bufWrite (s.memRead s.a0 b.toNat) s.pkt.path, pathLen := b } }

/-- PKT_SET_RPATH (R94): `INSTR[1:0] <- B / 4`. -/
def execPktSetRpath (b : Byte) (s : State) : Host.Outcome State Fault Refusal :=
  .next <|
    if b.toNat > Config.maxRpathLen || b.toNat % 4 != 0 then finish .eInval s
    else if !s.rangeOK s.a0 b.toNat then finish .eBus s
    else finish .ok
      { s with
        pkt :=
          { s.pkt with
            rpath := bufWrite (s.memRead s.a0 b.toNat) s.pkt.rpath
            rpathLen := b
            instr := s.pkt.instr.extractLsb' 2 6 ++ BitVec.ofNat 2 (b.toNat / 4) } }

/-- The field of PKT that PKT_GET reads (R95); `none` where it is E_INVAL. -/
def pktField (p : Pkt) (sel : BitVec 4) (idx : Byte) : Option Word :=
  match sel.toNat with
  | 0 => some (p.dst.setWidth 32)
  | 1 => some (p.src.setWidth 32)
  | 2 => some (p.key.setWidth 32)
  | 3 => some (p.instr.setWidth 32)
  | 4 => some (p.tid.setWidth 32)
  | 5 => some p.addr
  | 6 => some (p.dlen.setWidth 32)
  | 7 => some (p.pathLen.setWidth 32)
  | 8 => some (p.rpathLen.setWidth 32)
  | 9 => some (p.hcrc.setWidth 32)
  | 10 => some (p.dcrc.setWidth 32)
  | 11 => if idx ≥ p.pathLen then none else some ((byteAt p.path idx.toNat).setWidth 32)
  | 12 => if idx ≥ p.rpathLen then none else some ((byteAt p.rpath idx.toNat).setWidth 32)
  | _ => none

/-- PKT_GET (R95). -/
def execPktGet (sel : BitVec 4) (idx : Byte) (s : State) : Host.Outcome State Fault Refusal :=
  .next <|
    match pktField s.pkt sel idx with
    | none => finish .eInval s
    | some v => finishWith .ok v s

/-! ### Header size, serialization, parsing -/

/-- HDR_SIZE (R96). -/
def execHdrSize (s : State) : Host.Outcome State Fault Refusal :=
  .next <|
    if !legalCode (codeOf s.pkt.instr) then finish .eInval s
    else finishWith .ok (wordOfNat (headerSize s.cfg s.pkt)) s

/-- SERIALIZE (R98). -/
def execSerialize (s : State) : Host.Outcome State Fault Refusal :=
  .next <|
    if !legalCode (codeOf s.pkt.instr) then finish .eInval s
    else
      let bytes := ser s.cfg s.pkt
      if !s.rangeOK s.a0 bytes.length then finish .eBus s
      else finishWith .ok (wordOfNat bytes.length) (s.memWrite s.a0 bytes)

/-- PKT after a successful PARSE (R103). -/
def parsedPkt (p : Pkt) (r : Parsed) : Pkt :=
  { dst := r.dst, src := r.src, key := r.key, instr := r.ib, tid := r.tid, addr := r.addr, dlen := r.dlen
    path := p.path, pathLen := 0
    rpath := bufWrite r.rpath p.rpath, rpathLen := BitVec.ofNat 8 r.rl
    hcrc := r.hcrc, dcrc := r.dcrc }

/-- STATUS.WARN_LONG and LONG_WARNS after a PARSE that accepted a buffer longer than it needed (R102, R103). -/
def State.warnLong (s : State) (long : Bool) : State :=
  if long then { s with status := { s.status with warnLong := true }, longWarns := s.longWarns + 1 } else s

/-- PARSE (R103): the buffer is read whole before anything is written. -/
def execParse (s : State) : Host.Outcome State Fault Refusal :=
  .next <|
    if !s.rangeOK s.a0 s.a1 then finish .eBus s
    else
      match prs s.cfg s.ctrl.pcrc (s.memRead s.a0 s.a1) with
      | .error _ => finish .eParse s
      | .ok r =>
        if !s.rangeOK s.a2 r.dlen.toNat then finish .eBus s
        else finishWith .ok (wordOfNat r.need)
          (({ s with pkt := parsedPkt s.pkt r }.memWrite s.a2 r.payload).warnLong r.long)

end Sys2Proof.Machine
end

