-- ==== Sys2Proof/Machine/Crc.lean ====
section
/-! DEFINITION. The CRC8 unit's command (spec/40_crc.md R83). -/

namespace Sys2Proof.Machine

/-- CRC8 (R83): the CRC of the LARG1 bytes of local memory at LARG0. -/
def execCrc8 (s : State) : Host.Outcome State Fault Refusal :=
  .next <|
    if !s.rangeOK s.a0 s.a1 then finish .eBus s
    else finishWith .ok ((crc8 (s.memRead s.a0 s.a1)).setWidth 32) s

end Sys2Proof.Machine
end

