-- ==== Sys2Proof/Machine/TransLog.lean ====
section
/-! DEFINITION. The transaction log's commands (spec/43_translog.md R134 to R144) and the drain step that DRAIN and
PENDING_COUNT run as (R143). -/

namespace Sys2Proof.Machine

/-! ### The slot table -/

/-- TL_GRAB (R134). -/
def execTlGrab (hd : Bool) (s : State) : Host.Outcome State Fault Refusal :=
  .next <|
    match s.grab hd s.larg0 with
    | none => finish .eExhausted s
    | some (j, s') => finishWith .ok (wordOfNat j) s'

/-- TL_RELEASE (R135). -/
def execTlRelease (id : BitVec 16) (s : State) : Host.Outcome State Fault Refusal :=
  .next <| finish .ok (s.release id.toNat)

/-- TL_QUERY (R136). -/
def execTlQuery (id : BitVec 16) (word : Bool) (s : State) : Host.Outcome State Fault Refusal :=
  .next <|
    if id.toNat ≥ s.cfg.cSlots then finish .eInval s
    else if word then finishWith .ok (s.slot id.toNat).laddr s
    else finishWith .ok (flagAt (s.slot id.toNat).hd 1 ||| flagAt (s.slot id.toNat).used 0) s

/-- TL_RESET (R137). -/
def execTlReset (s : State) : Host.Outcome State Fault Refusal :=
  .next <| finish .ok s.releaseAll

/-- LINK_LOAD (R138). -/
def execLinkLoad (s : State) : Host.Outcome State Fault Refusal :=
  .next <| finish .ok
    { s with
      link :=
        { dst := s.pkt.dst, src := s.pkt.src, key := s.pkt.key, path := s.pkt.path, pathLen := s.pkt.pathLen
          rpath := s.pkt.rpath, rpathLen := s.pkt.rpathLen } }

/-! ### Submitting commands -/

/-- The manager's packet (R139): INSTR is `0x40 | CODE << 2 | L.RPATH_LEN / 4`. Its CRC fields are not sent. -/
def managerPkt (l : LinkCfg) (code : BitVec 4) (j : Nat) (addr : Word) (dlen : BitVec 24) : Pkt :=
  { dst := l.dst, src := l.src, key := l.key
    instr := 0x40#8 ||| (0#2 ++ code ++ 0#2) ||| BitVec.ofNat 8 (l.rpathLen.toNat / 4)
    tid := BitVec.ofNat 16 j, addr := addr, dlen := dlen
    path := l.path, pathLen := l.pathLen, rpath := l.rpath, rpathLen := l.rpathLen, hcrc := 0, dcrc := 0 }

/-- The manager packet's header length (R139, R140). -/
def State.managerHdrLen (s : State) : Nat := s.link.pathLen.toNat + s.link.rpathLen.toNat + 15

/-- What the SUBMITs do once slot `j` is theirs (R140, R141): build the packet, reclaim, and fill a descriptor, or end
E_NODESC with the slot kept. -/
def submitSend (code : BitVec 4) (x : List Byte) (j : Nat) (s : State) : State :=
  let m := managerPkt s.link code j s.larg0 (s.larg2.extractLsb' 0 24)
  let r := s.txReclaim
  if r.tx.free.isEmpty then finishWith .eNodesc (wordOfNat j) r
  else finishWith .ok (wordOfNat j) (r.txFill (ser s.cfg m) s.link.pathLen x)

/-- SUBMIT_WRITE (R140): CODE 0xB. -/
def execSubmitWrite (s : State) : Host.Outcome State Fault Refusal :=
  .next <|
    if s.a2 > 0x00FFFFFF then finish .eInval s
    else if s.managerHdrLen > s.cfg.txHdrBuf || s.a2 > s.cfg.txDataBuf then finish .eToobig s
    else if !s.rangeOK s.a1 s.a2 then finish .eBus s
    else
      match s.grab false 0 with
      | none => finish .eExhausted s
      | some (j, s') => submitSend 0xB (s.memRead s.a1 s.a2) j s'

/-- The length of the reply a read of `n` bytes expects (R141). -/
def expectedReplyLen (c : Config) (n : Nat) : Nat :=
  10 + (if c.replyRsvd then 1 else 0) + 1 + (if n > 0 then n + 1 else 0)

/-- SUBMIT_READ (R141): CODE 0x3. -/
def execSubmitRead (s : State) : Host.Outcome State Fault Refusal :=
  .next <|
    if s.a2 > 0x00FFFFFF then finish .eInval s
    else if s.managerHdrLen > s.cfg.txHdrBuf then finish .eToobig s
    else if expectedReplyLen s.cfg s.a2 > s.cfg.rxBuf then finish .eToobig s
    else if !s.rangeOK s.a1 s.a2 then finish .eBus s
    else
      match s.grab true s.larg1 with
      | none => finish .eExhausted s
      | some (j, s') => submitSend 0x3 [] j s'

/-! ### Draining replies -/

/-- DRAIN (R142): the step that decodes it; BUSY stays 1 and the drain steps follow. -/
def execDrain (s : State) : Host.Outcome State Fault Refusal :=
  .next { s with drainMode := .drain, drainN := 0 }

/-- PENDING_COUNT (R144): as DRAIN, ending with the pending count. -/
def execPendingCount (s : State) : Host.Outcome State Fault Refusal :=
  .next { s with drainMode := .pcount, drainN := 0 }

/-- A matched reply (R143): its payload goes to the slot's recorded address if the slot has one, and the slot is
released. -/
def drainMatched (r : Parsed) (s : State) : State :=
  let e := s.slot r.tid.toNat
  let s' :=
    if r.dlen != 0 && e.hd then
      if s.rangeOK e.laddr.toNat r.dlen.toNat then s.memWrite e.laddr.toNat r.payload
      else { s with busErrs := s.busErrs + 1 }
    else s
  s'.release r.tid.toNat

/-- A packet that parses (R143): a command or an unmatched reply is counted and discarded. -/
def drainParsed (r : Parsed) (s : State) : State :=
  let s' := if r.long then { s with longWarns := s.longWarns + 1 } else s
  if isCmd r.ib || !s.slotMatch r.tid.toNat then { s' with unmatched := s'.unmatched + 1 }
  else drainMatched r s'

/-- What a drain step does with the packet in descriptor `i`, before it re-arms (R143). -/
def drainPacket (i : Nat) (s : State) : State :=
  if (s.rx.at i).tr then { s with parseErrs := s.parseErrs + 1 }
  else
    match prs s.cfg s.ctrl.pcrc (s.rx.bytes i (s.rx.at i).size.toNat) with
    | .error _ => { s with parseErrs := s.parseErrs + 1 }
    | .ok r => drainParsed r s

/-- One drain step (R143): the packet at the head of the ready queue, or the end of the drain. -/
def drainStep (s : State) : State :=
  match rxHead s.rx with
  | none =>
    match s.drainMode with
    | .pcount => finishWith .ok s.pend s
    | _ => finishWith .ok s.drainN s
  | some i =>
    let t := (drainPacket i { s with rxBytes := s.rxBytes + wordOfNat (s.rx.at i).size.toNat }).rxRearm
    { t with drainN := t.drainN + 1 }

end Sys2Proof.Machine
end

