-- ==== Sys2Proof/Machine/Transport.lean ====
section
/-! DEFINITION. The descriptor-ring transport's commands (spec/42_transport.md R118 to R125). -/

namespace Sys2Proof.Machine

/-- TX_INIT (R118). -/
def execTxInit (s : State) : Host.Outcome State Fault Refusal :=
  .next <| finish .ok { s with tx := txInit s.cfg.nTx s.tx }

/-- RX_INIT (R119). -/
def execRxInit (s : State) : Host.Outcome State Fault Refusal :=
  .next <| finish .ok { s with rx := rxInit s.cfg.nRx s.ctrl.rxie s.rx }

/-- TX_ENQUEUE (R120): what it reclaimed stays reclaimed when no descriptor is free. -/
def execTxEnqueue (hlen ncl : Byte) (s : State) : Host.Outcome State Fault Refusal :=
  .next <|
    if hlen = 0 || ncl > hlen then finish .eInval s
    else if hlen.toNat > s.cfg.txHdrBuf || s.a2 > s.cfg.txDataBuf then finish .eToobig s
    else if !s.rangeOK s.a0 hlen.toNat || !s.rangeOK s.a1 s.a2 then finish .eBus s
    else
      let r := s.txReclaim
      if r.tx.free.isEmpty then finish .eNodesc r
      else finish .ok (r.txFill (s.memRead s.a0 hlen.toNat) ncl (s.memRead s.a1 s.a2))

/-- RX_POLL (R121). -/
def execRxPoll (s : State) : Host.Outcome State Fault Refusal :=
  .next <|
    match rxHead s.rx with
    | none => finishWith .none 0 s
    | some i => finishWith .ok (rxResult (s.rx.at i)) s

/-- RX_FETCH (R122). -/
def execRxFetch (s : State) : Host.Outcome State Fault Refusal :=
  .next <|
    match rxHead s.rx with
    | none => finishWith .none 0 s
    | some i =>
      let n := (s.rx.at i).size.toNat
      if !s.rangeOK s.a0 n then finish .eBus s
      else finishWith .ok (rxResult (s.rx.at i))
        { s.memWrite s.a0 (s.rx.bytes i n) with rxBytes := s.rxBytes + wordOfNat n }.rxRearm

/-- RX_DROP (R123): RX_BYTES does not count a dropped packet. -/
def execRxDrop (s : State) : Host.Outcome State Fault Refusal :=
  .next <|
    match rxHead s.rx with
    | none => finishWith .none 0 s
    | some i => finishWith .ok (rxResult (s.rx.at i)) s.rxRearm

/-- DESC_READ (R124). -/
def execDescRead (idx : BitVec 16) (ring : Ring) (word : Bool) (s : State) : Host.Outcome State Fault Refusal :=
  .next <|
    match ring with
    | .tx =>
      if idx.toNat ≥ s.cfg.nTx then finish .eInval s else finishWith .ok ((s.tx.at idx.toNat).packed word) s
    | .rx =>
      if idx.toNat ≥ s.cfg.nRx then finish .eInval s else finishWith .ok ((s.rx.at idx.toNat).packed word) s

/-- RING_STAT (R125): it does not reclaim. -/
def execRingStat (ring : Ring) (sel : Bool) (s : State) : Host.Outcome State Fault Refusal :=
  .next <| finishWith .ok
    (match ring with
      | .tx => ringStatWord s.tx.free s.tx.busy s.tx.lptr sel
      | .rx => ringStatWord s.rx.free s.rx.busy s.rx.lptr sel)
    s

end Sys2Proof.Machine
end

