-- ==== Sys2Proof/Machine/Dispatch.lean ====
section
/-! DEFINITION. One arm per command of spec/30_encoding.md R64. -/

namespace Sys2Proof.Machine

/-- The CORE step that executes the latched command (spec/10_state.md R28). -/
def exec (i : Instr) (s : State) : Host.Outcome State Fault Refusal :=
  match i with
  | .crc8 => Sys2Proof.Machine.execCrc8 s
  | .pktClear => Sys2Proof.Machine.execPktClear s
  | .pktSetDst b => Sys2Proof.Machine.execPktSetDst b s
  | .pktSetSrc b => Sys2Proof.Machine.execPktSetSrc b s
  | .pktSetKey b => Sys2Proof.Machine.execPktSetKey b s
  | .pktSetCmd code => Sys2Proof.Machine.execPktSetCmd code s
  | .pktSetReply => Sys2Proof.Machine.execPktSetReply s
  | .pktSetTid h => Sys2Proof.Machine.execPktSetTid h s
  | .pktSetAddr => Sys2Proof.Machine.execPktSetAddr s
  | .pktSetDlen => Sys2Proof.Machine.execPktSetDlen s
  | .pktSetPath b => Sys2Proof.Machine.execPktSetPath b s
  | .pktSetRpath b => Sys2Proof.Machine.execPktSetRpath b s
  | .pktGet sel idx => Sys2Proof.Machine.execPktGet sel idx s
  | .hdrSize => Sys2Proof.Machine.execHdrSize s
  | .serialize => Sys2Proof.Machine.execSerialize s
  | .parse => Sys2Proof.Machine.execParse s
  | .txInit => Sys2Proof.Machine.execTxInit s
  | .rxInit => Sys2Proof.Machine.execRxInit s
  | .txEnqueue hlen ncl => Sys2Proof.Machine.execTxEnqueue hlen ncl s
  | .rxPoll => Sys2Proof.Machine.execRxPoll s
  | .rxFetch => Sys2Proof.Machine.execRxFetch s
  | .rxDrop => Sys2Proof.Machine.execRxDrop s
  | .descRead idx ring word => Sys2Proof.Machine.execDescRead idx ring word s
  | .ringStat ring sel => Sys2Proof.Machine.execRingStat ring sel s
  | .tlGrab hd => Sys2Proof.Machine.execTlGrab hd s
  | .tlRelease id => Sys2Proof.Machine.execTlRelease id s
  | .tlQuery id word => Sys2Proof.Machine.execTlQuery id word s
  | .tlReset => Sys2Proof.Machine.execTlReset s
  | .linkLoad => Sys2Proof.Machine.execLinkLoad s
  | .submitWrite => Sys2Proof.Machine.execSubmitWrite s
  | .submitRead => Sys2Proof.Machine.execSubmitRead s
  | .drain => Sys2Proof.Machine.execDrain s
  | .pendingCount => Sys2Proof.Machine.execPendingCount s

end Sys2Proof.Machine
end

