-- ==== Sys2Proof/Machine/CoreStep.lean ====
section
/-! DEFINITION. CORE's step (spec/10_state.md R28) and one turn of any agent (spec/00_scope.md R6). -/

namespace Sys2Proof.Machine

/-- CORE's step (R28, R65): with no drain under way it decodes and executes the latched command, or finishes E_BADOP;
during a drain it is one drain step. While not busy CORE has no step: the turn passes. -/
def coreTurn (s : State) : Host.Outcome State Fault Refusal :=
  if !s.status.busy then .next s
  else
    match s.drainMode with
    | .none =>
      match decode s.lcmd with
      | .ok i => exec i s
      | .error _ => .next (finish .eBadop s)
    | .drain => .next (drainStep s)
    | .pcount => .next (drainStep s)

/-- One turn: one atomic step of one agent (R6, R54), an arrival (R109) or the reset event (R163). -/
def takeTurn (t : Turn) (s : State) : Host.Outcome State Fault Refusal :=
  match t with
  | .host act => hostStep act s
  | .core => coreTurn s
  | .linkTx => .next (linkTxStep s)
  | .linkRx => linkRxStep s
  | .arrive p => .next (arrival p s)
  | .reset => .next (resetEvent s)

/-- The turn that comes next and the state before it: the schedule's first; where it has ended, the first of the turns
that repeat, the others becoming the schedule; and CORE's where no turn repeats (log entry 3). -/
def nextTurn (s : State) : Turn × State :=
  match s.sched with
  | t :: rest => (t, { s with sched := rest })
  | [] =>
    match s.again with
    | t :: rest => (t, { s with sched := rest })
    | [] => (.core, s)

/-- The state in which `w` is the accepted command and CORE's is the next turn: what a host write of `w` to CMD leaves
while the command port is free (R27), with nothing of an earlier command under way. -/
def placeCommand (w : Word) (s : State) : State :=
  let t := acceptCommand w { s with status := { s.status with busy := false }, drainMode := .none }
  { t with sched := .core :: t.sched }

end Sys2Proof.Machine
end

