-- ==== Sys2Proof/Machine/Step.lean ====
section
/-! DEFINITION. One step of the machine: the next turn of the schedule (spec/00_scope.md R6, spec/20_memory.md R54,
R55). -/

namespace Sys2Proof.Machine

/-- One step: one turn of one agent. -/
def step (s : State) : Host.Outcome State Fault Refusal := takeTurn (nextTurn s).1 (nextTurn s).2

/-- The state whose very next step runs the command word `w` (log entry 4): RMAP-CORE fetches nothing (R17), so the
word is placed in its command latch as an accepted host write leaves it, and CORE has the next turn. -/
def State.withFetchWord (s : State) (nbits w : Nat) : State := placeCommand (BitVec.ofNat 32 (w % 2 ^ nbits)) s

end Sys2Proof.Machine
end

