-- ==== Sys2Proof/Safety.lean ====
section
/-! DEFINITION. The terms claims are stated in: the invariants the spec's rules say hold between steps, whatever the
agents do (spec/10_state.md R32, R38, R40, R42; spec/42_transport.md R117), the canonical form of local memory, how a
command word runs, which completion codes a command may write, and runs of several commands. -/

namespace Sys2Proof.Machine

/-! ### Local memory -/

/-- Local memory is in its canonical form, and only bytes that exist are listed (R44). -/
structure MemoryOk (s : State) : Prop where
  canonical : Memory.wf s.lmem
  exist : ∀ x ∈ s.lmem, x.1 < 2 ^ 32 ∧ isMapped s.cfg x.1 = true

/-! ### PKT and L -/

/-- R32: the path buffers keep their sizes and the lengths their bounds. -/
structure PathsOk (c : Config) (path : List Byte) (pathLen : Byte) (rpath : List Byte) (rpathLen : Byte) : Prop where
  pathSize : path.length = c.maxPathLen
  pathLen_le : pathLen.toNat ≤ c.maxPathLen
  rpathSize : rpath.length = Config.maxRpathLen
  rpathLen_ok : rpathLen.toNat ∈ [0, 4, 8, 12]

/-- The packet builder's invariant (R32), with the reserved bit of PKT.INSTR, which is 0 after reset and which no
command sets (R77, R88, R100). -/
structure PktOk (s : State) : Prop where
  paths : PathsOk s.cfg s.pkt.path s.pkt.pathLen s.pkt.rpath s.pkt.rpathLen
  reserved : isReservedIb s.pkt.instr = false

/-- R34: `L` keeps the invariants of R32 on path lengths. -/
def LinkOk (s : State) : Prop := PathsOk s.cfg s.link.path s.link.pathLen s.link.rpath s.link.rpathLen

/-! ### The rings -/

/-- `[h, h+1, .., N-1, 0, .., h-1]` (R40). -/
def rotation (n h : Nat) : List Nat := (List.range n).map fun k => (h + k) % n

/-- Where the link's pointer stands (R40): at the first enabled busy descriptor; where none is enabled, at the head of
the free queue; where that is empty too, every descriptor has been served and the pointer has come round to the head
of the busy queue (this last case is the model's completion of R40, log entry 6). -/
def pointerOf (en : Nat → Bool) (busy free : List Nat) : Option Nat :=
  (busy.find? en).or ((free ++ busy).head?)

/-- R38 and R40 for a ring of size `n` whose descriptor `i` is enabled iff `en i`. -/
structure RingOrder (n : Nat) (en : Nat → Bool) (busy free : List Nat) (lptr : Nat) : Prop where
  /-- BUSY ++ FREE is a rotation of `[0, .., N-1]`. -/
  rotates : ∃ h, h < n ∧ busy ++ free = rotation n h
  /-- In BUSY every descriptor with EN = 0 comes before every descriptor with EN = 1. -/
  drainedFirst : busy.Pairwise fun i j => en i = true → en j = true
  /-- A free descriptor is not enabled. -/
  freeOff : ∀ i ∈ free, en i = false
  /-- The link's pointer. -/
  pointer : pointerOf en busy free = some lptr

/-- The TX ring's invariant (R35, R38, R40): one descriptor and one buffer pair per index, WR on the last only (R106),
and every enabled descriptor's lengths within what has been written to its buffers and within their sizes. -/
structure TxRingOk (s : State) : Prop where
  descs : s.tx.desc.length = s.cfg.nTx
  hdrs : s.tx.hdr.length = s.cfg.nTx
  datas : s.tx.data.length = s.cfg.nTx
  wrap : ∀ i, i < s.cfg.nTx → (s.tx.at i).wr = (i + 1 == s.cfg.nTx)
  order : RingOrder s.cfg.nTx (fun i => (s.tx.at i).en) s.tx.busy s.tx.free s.tx.lptr.toNat
  lengths : ∀ i, (s.tx.at i).en = true →
    (s.tx.at i).ncl.toNat ≤ (s.tx.at i).hlen.toNat ∧
    (s.tx.at i).hlen.toNat ≤ (s.tx.hdr.getD i []).length ∧
    (s.tx.at i).dlen.toNat ≤ (s.tx.data.getD i []).length
  hdrFits : ∀ b ∈ s.tx.hdr, b.length ≤ s.cfg.txHdrBuf
  dataFits : ∀ b ∈ s.tx.data, b.length ≤ s.cfg.txDataBuf

/-- The RX ring's invariant (R36, R38, R40), with R117: before the first RX_INIT nothing is busy, and after it nothing
is free. -/
structure RxRingOk (s : State) : Prop where
  descs : s.rx.desc.length = s.cfg.nRx
  bufs : s.rx.buf.length = s.cfg.nRx
  wrap : ∀ i, i < s.cfg.nRx → (s.rx.at i).wr = (i + 1 == s.cfg.nRx)
  order : RingOrder s.cfg.nRx (fun i => (s.rx.at i).en) s.rx.busy s.rx.free s.rx.lptr.toNat
  armed : s.rx.busy = [] ∨ s.rx.free = []
  lengths : ∀ i, (s.rx.at i).size.toNat ≤ (s.rx.buf.getD i []).length
  bufFits : ∀ b ∈ s.rx.buf, b.length ≤ s.cfg.rxBuf

/-! ### The transaction log -/

/-- The number of slots in use. -/
def State.usedSlots (s : State) : Nat := s.slots.countP fun e => e.used

/-- R41, R42: the table has C_SLOTS entries and PEND counts the slots in use; an idle slot holds no address (R132). -/
structure SlotsOk (s : State) : Prop where
  size : s.slots.length = s.cfg.cSlots
  count : s.pend.toNat = s.usedSlots
  idle : ∀ e ∈ s.slots, e.used = false → e = Slot.idle

/-! ### The command port -/

/-- A drain runs only while the command port is busy (R29, R30). -/
def LatchOk (s : State) : Prop := s.drainMode ≠ .none → s.status.busy = true

/-- The machine's invariant: a configuration that R7, R8 and R48 admit, and the invariants above. -/
structure Inv (s : State) : Prop where
  config : s.cfg.wf = true
  memory : MemoryOk s
  pkt : PktOk s
  link : LinkOk s
  tx : TxRingOk s
  rx : RxRingOk s
  slots : SlotsOk s
  latch : LatchOk s

/-! ### Command words -/

/-- CORE runs the accepted word `w` as the command `i` (R28, R65). -/
def RunsAs (w : Word) (i : Instr) : Prop :=
  ∀ s : State, s.status.busy = true → s.drainMode = .none → s.lcmd = w → coreTurn s = exec i s

/-- An accepted word of opcode `op` with a bit of its immediate from bit `lo` up set finishes E_BADOP and changes
nothing but STATUS (R63, R65). -/
def RejectsReserved (op : Byte) (lo : Nat) : Prop :=
  ∀ (s : State) (imm : BitVec 24), s.status.busy = true → s.drainMode = .none → s.lcmd = commandWord op imm →
    2 ^ lo ≤ imm.toNat → coreTurn s = .next { s with status := { s.status with code := .eBadop, busy := false } }

/-- The four units of R3. -/
inductive CoreUnit where
  | crc
  | codec
  | transport
  | manager
  deriving DecidableEq, Repr

/-- The unit a command belongs to (R3, R64). -/
def unitOf : Instr → CoreUnit
  | .crc8 => .crc
  | .pktClear => .codec
  | .pktSetDst _ => .codec
  | .pktSetSrc _ => .codec
  | .pktSetKey _ => .codec
  | .pktSetCmd _ => .codec
  | .pktSetReply => .codec
  | .pktSetTid _ => .codec
  | .pktSetAddr => .codec
  | .pktSetDlen => .codec
  | .pktSetPath _ => .codec
  | .pktSetRpath _ => .codec
  | .pktGet _ _ => .codec
  | .hdrSize => .codec
  | .serialize => .codec
  | .parse => .codec
  | .txInit => .transport
  | .rxInit => .transport
  | .txEnqueue _ _ => .transport
  | .rxPoll => .transport
  | .rxFetch => .transport
  | .rxDrop => .transport
  | .descRead _ _ _ => .transport
  | .ringStat _ _ => .transport
  | .tlGrab _ => .manager
  | .tlRelease _ => .manager
  | .tlQuery _ _ => .manager
  | .tlReset => .manager
  | .linkLoad => .manager
  | .submitWrite => .manager
  | .submitRead => .manager
  | .drain => .manager
  | .pendingCount => .manager

/-- The completion codes the table of R148 lets a command write, E_BADOP apart, which no command writes: it is a word's
that is no command. -/
def codesOf : Instr → List Code
  | .crc8 => [.ok, .eBus]
  | .pktClear => [.ok]
  | .pktSetDst _ => [.ok]
  | .pktSetSrc _ => [.ok]
  | .pktSetKey _ => [.ok]
  | .pktSetCmd _ => [.ok, .eInval]
  | .pktSetReply => [.ok]
  | .pktSetTid _ => [.ok]
  | .pktSetAddr => [.ok]
  | .pktSetDlen => [.ok, .eInval]
  | .pktSetPath _ => [.ok, .eInval, .eBus]
  | .pktSetRpath _ => [.ok, .eInval, .eBus]
  | .pktGet _ _ => [.ok, .eInval]
  | .hdrSize => [.ok, .eInval]
  | .serialize => [.ok, .eInval, .eBus]
  | .parse => [.ok, .eParse, .eBus]
  | .txInit => [.ok]
  | .rxInit => [.ok]
  | .txEnqueue _ _ => [.ok, .eInval, .eNodesc, .eToobig, .eBus]
  | .rxPoll => [.ok, .none]
  | .rxFetch => [.ok, .none, .eBus]
  | .rxDrop => [.ok, .none]
  | .descRead _ _ _ => [.ok, .eInval]
  | .ringStat _ _ => [.ok]
  | .tlGrab _ => [.ok, .eExhausted]
  | .tlRelease _ => [.ok]
  | .tlQuery _ _ => [.ok, .eInval]
  | .tlReset => [.ok]
  | .linkLoad => [.ok]
  | .submitWrite => [.ok, .eInval, .eNodesc, .eExhausted, .eToobig, .eBus]
  | .submitRead => [.ok, .eInval, .eNodesc, .eExhausted, .eToobig, .eBus]
  | .drain => [.ok]
  | .pendingCount => [.ok]

/-! ### Packets on their way -/

/-- The packets queued in the TX ring and not yet sent, in the order of the busy queue (R107, R128). -/
def State.queuedTx (s : State) : List (List Byte) :=
  (s.tx.busy.filter fun i => (s.tx.at i).en).map (txPacket s.tx)

/-- The packets received and not yet consumed, in the order of the busy queue (R115, R127). -/
def State.readyRx (s : State) : List (List Byte) :=
  (s.rx.busy.filter fun i => !(s.rx.at i).en).map fun i => s.rx.bytes i (s.rx.at i).size.toNat

/-- The packet that arrives on the link in the next step, if one does (R109). -/
def State.arrivesNext (s : State) : List (List Byte) :=
  match (nextTurn s).1 with
  | .arrive p => [p]
  | .host _ => []
  | .core => []
  | .linkTx => []
  | .linkRx => []
  | .reset => []

/-- The next step is CORE's, and it executes the accepted command `i` (R28). -/
def State.runsNext (s : State) (i : Instr) : Prop :=
  (nextTurn s).1 = .core ∧ s.status.busy = true ∧ s.drainMode = .none ∧ decode s.lcmd = .ok i

/-- The next step is CORE's, and it is a drain step (R28). -/
def State.drainsNext (s : State) : Prop :=
  (nextTurn s).1 = .core ∧ s.status.busy = true ∧ s.drainMode ≠ .none

/-! ### Runs of commands -/

/-- A command with the operands latched for it. -/
structure Command where
  instr : Instr
  a0 : Word
  a1 : Word
  a2 : Word
  deriving DecidableEq, Repr

/-- The command's step once its operands are latched. -/
def Command.run (k : Command) (s : State) : Host.Outcome State Fault Refusal :=
  exec k.instr { s with larg0 := k.a0, larg1 := k.a1, larg2 := k.a2 }

/-- Commands one after another, with the CODE and the RESULT each leaves; `none` where one does not complete. -/
def runCommands : List Command → State → Option (List (Code × Word) × State)
  | [], s => some ([], s)
  | k :: ks, s =>
    match k.run s with
    | .next t => (runCommands ks t).map fun p => ((t.status.code, t.result) :: p.1, p.2)
    | .fault _ => none
    | .refused _ => none

/-- A TX_ENQUEUE that passes the checks of R120 under configuration `c`. -/
def Command.validEnqueue (c : Config) (k : Command) : Prop :=
  ∃ hlen ncl : Byte, k.instr = .txEnqueue hlen ncl ∧ hlen ≠ 0 ∧ ncl.toNat ≤ hlen.toNat ∧ hlen.toNat ≤ c.txHdrBuf ∧
    k.a2.toNat ≤ c.txDataBuf ∧ rangeOK c k.a0.toNat hlen.toNat = true ∧ rangeOK c k.a1.toNat k.a2.toNat = true

/-- `n` steps of the kind `f`, up to one that stops. -/
def runFor (f : State → Host.Outcome State Fault Refusal) : Nat → State → Host.Outcome State Fault Refusal
  | 0, s => .next s
  | n + 1, s =>
    match f s with
    | .next t => runFor f n t
    | .fault e => .fault e
    | .refused e => .refused e

/-- `n` turns of CORE. -/
abbrev coreTurns : Nat → State → Host.Outcome State Fault Refusal := runFor coreTurn

/-- `n` steps of the machine. -/
abbrev steps : Nat → State → Host.Outcome State Fault Refusal := runFor step

end Sys2Proof.Machine
end

