-- ==== Sys2Proof/Certificates/Slice0/Obligations.lean ====
section
/-! DEFINITION. What is claimed of the model, stated from the numbered rules of spec/. -/

section RmapCoreStatements

open Sys2Proof Sys2Proof.Machine

/-! ### Command words -/

/-- Words written out from spec/30_encoding.md R62, R63 and R64, at least one per family, decode to the commands they
stand for; words with a reserved bit set, and words of no command, are rejected by name (R65, R66). -/
def Obligations.SpecWordsDecode : Prop :=
  decode 0x01000000#32 = .ok .crc8 ∧
  decode 0x10000000#32 = .ok .pktClear ∧
  decode 0x110000FE#32 = .ok (.pktSetDst 0xFE) ∧
  decode 0x14000003#32 = .ok (.pktSetCmd 0x3) ∧
  decode 0x16001234#32 = .ok (.pktSetTid 0x1234) ∧
  decode 0x1A000004#32 = .ok (.pktSetRpath 4) ∧
  decode 0x1B00001B#32 = .ok (.pktGet 11 1) ∧
  decode 0x22000000#32 = .ok .parse ∧
  decode 0x3200100F#32 = .ok (.txEnqueue 15 16) ∧
  decode 0x36010001#32 = .ok (.descRead 1 .rx false) ∧
  decode 0x36020000#32 = .ok (.descRead 0 .tx true) ∧
  decode 0x37000002#32 = .ok (.ringStat .tx true) ∧
  decode 0x37000001#32 = .ok (.ringStat .rx false) ∧
  decode 0x40000001#32 = .ok (.tlGrab true) ∧
  decode 0x4100FFFF#32 = .ok (.tlRelease 0xFFFF) ∧
  decode 0x42010000#32 = .ok (.tlQuery 0 true) ∧
  decode 0x45000000#32 = .ok .submitWrite ∧
  decode 0x48000000#32 = .ok .pendingCount ∧
  decode 0x01000001#32 = .error .reservedBit ∧
  decode 0x37000004#32 = .error .reservedBit ∧
  decode 0x49000000#32 = .error .illegalOpcode

/-- Every command, whatever its fields, is read back from its own word. -/
def Obligations.DecodeOfEncode : Prop := ∀ i : Instr, decode (encode i) = .ok i

/-- A word that decodes is the word of the command it decodes to: no bit of it goes unread. -/
def Obligations.EncodeOfDecode : Prop := ∀ (w : Word) (i : Instr), decode w = .ok i → encode i = w

/-- R65 and R66: CORE's step on an accepted word. A word whose opcode is not in the table, or with a reserved bit set,
finishes E_BADOP and changes nothing but STATUS; every other word is one command, which CORE executes; the opcodes not
in the table are those R66 lists. -/
def Obligations.DecodingIsTotal : Prop :=
  (∀ s : State, s.status.busy = true → s.drainMode = .none →
    (opcodeMap.lookup (opcodeOf s.lcmd).toNat = none →
      coreTurn s = .next { s with status := { s.status with code := .eBadop, busy := false } }) ∧
    (∀ f : Format, opcodeMap.lookup (opcodeOf s.lcmd).toNat = some f →
      (s.lcmd &&& f.reserved ≠ 0 →
        coreTurn s = .next { s with status := { s.status with code := .eBadop, busy := false } }) ∧
      (s.lcmd &&& f.reserved = 0 →
        ∃ i : Instr, decode s.lcmd = .ok i ∧ encode i = s.lcmd ∧ coreTurn s = exec i s))) ∧
  (∀ w : Word, decode w = .error .illegalOpcode ↔
    (opcodeOf w).toNat = 0x00 ∨ (0x02 ≤ (opcodeOf w).toNat ∧ (opcodeOf w).toNat ≤ 0x0F) ∨
    (0x1C ≤ (opcodeOf w).toNat ∧ (opcodeOf w).toNat ≤ 0x1F) ∨ (0x23 ≤ (opcodeOf w).toNat ∧ (opcodeOf w).toNat ≤ 0x2F) ∨
    (0x38 ≤ (opcodeOf w).toNat ∧ (opcodeOf w).toNat ≤ 0x3F) ∨ (0x49 ≤ (opcodeOf w).toNat))

/-- A step is one turn: the schedule's next, where it has ended the first of the turns that repeat, and CORE's where none
does; a turn of each agent is that agent's step. A turn of CORE runs the command the latched word decodes to, or the drain
step of a drain under way, and passes with nothing changed while BUSY = 0, where R28 says that CORE has no step. That the
turns come from `sched` and `again`, and that a turn without a step passes, is the model's choice (log entry 3). -/
def Obligations.StepRunsLatchedCommand : Prop :=
  (∀ (s : State) (t : Turn) (rest : List Turn),
    (s.sched = t :: rest → step s = takeTurn t { s with sched := rest }) ∧
    (s.sched = [] → s.again = t :: rest → step s = takeTurn t { s with sched := rest }) ∧
    (s.sched = [] → s.again = [] → step s = takeTurn .core s)) ∧
  (∀ s : State,
    takeTurn .core s = coreTurn s ∧ (∀ act : HostAct, takeTurn (.host act) s = hostStep act s) ∧
    takeTurn .linkTx s = .next (linkTxStep s) ∧ takeTurn .linkRx s = linkRxStep s ∧
    (∀ p : List Byte, takeTurn (.arrive p) s = .next { s with rxWire := s.rxWire ++ [p] }) ∧
    takeTurn .reset s = .next (resetEvent s)) ∧
  (∀ s : State,
    (s.status.busy = false → coreTurn s = .next s) ∧
    (∀ i : Instr, s.status.busy = true → s.drainMode = .none → decode s.lcmd = .ok i → coreTurn s = exec i s) ∧
    (s.status.busy = true → s.drainMode ≠ .none → coreTurn s = .next (drainStep s)))

/-! ### CRC8 -/

/-- R81 and R82: the table is the one the reflected polynomial 0xE0 generates; the fold composes; a sequence followed by
its CRC has CRC 0; the CRC of one byte is its table entry. -/
def Obligations.CrcTableAndResidue : Prop :=
  (∀ i : Byte, crcTable i = (fun c : Byte => if c.getLsbD 0 then (c >>> 1) ^^^ 0xE0#8 else c >>> 1)^[8] i) ∧
  crc8 [] = 0x00 ∧ crc8 [0x01] = 0x91 ∧
  (∀ (c : Byte) (s t : List Byte), crc8From c (s ++ t) = crc8From (crc8From c s) t) ∧
  (∀ s : List Byte, crc8 (s ++ [crc8 s]) = 0x00) ∧
  (∀ b : Byte, crc8 [b] = crcTable b)

/-- R83: the CRC8 command. -/
def Obligations.Crc8Command : Prop :=
  RunsAs 0x01000000#32 .crc8 ∧ RejectsReserved 0x01 0 ∧
  ∀ s : State,
    (rangeOK s.cfg s.larg0.toNat s.larg1.toNat = true →
      ∃ v : Word, v.toNat = (crc8 (Memory.read s.lmem s.larg0.toNat s.larg1.toNat)).toNat ∧
        exec .crc8 s = .next (finishWith .ok v s)) ∧
    (rangeOK s.cfg s.larg0.toNat s.larg1.toNat = false → exec .crc8 s = .next (finish .eBus s)) ∧
    (s.larg1 = 0 → exec .crc8 s = .next (finishWith .ok 0 s))

/-! ### Local memory -/

/-- R45 and R46, and the model's own canonical form of local memory: what was written is what is read, every other byte
reads as before, the form is kept, and equal readings are equal memories. -/
def Obligations.MemoryReadAfterWrite : Prop :=
  (∀ (m : List Host.Cell) (a : Nat) (s : List Byte), Memory.wf m →
    Memory.wf (Memory.write m a s) ∧ Memory.read (Memory.write m a s) a s.length = s ∧
    ∀ b, b < a ∨ a + s.length ≤ b → Memory.readByte (Memory.write m a s) b = Memory.readByte m b) ∧
  (∀ (m : List Host.Cell) (a n : Nat), (Memory.read m a n).length = n ∧
    ∀ k, k < n → byteAt (Memory.read m a n) k = Memory.readByte m (a + k)) ∧
  (∀ m m' : List Host.Cell, Memory.wf m → Memory.wf m' → (∀ a, Memory.readByte m a = Memory.readByte m' a) → m = m')

/-- R47 and R48: the empty range always passes; any other passes iff it does not run past 2^32 - 1 and each of its bytes
exists; in a configuration that is not refused, no range that passes reaches the register window. -/
def Obligations.RangeOkExactly : Prop :=
  (∀ (c : Config) (a n : Nat), rangeOK c a n = true ↔
    n = 0 ∨ (a + n ≤ 2 ^ 32 ∧ ∀ x, a ≤ x → x < a + n → ∃ r ∈ c.mapped, r.base ≤ x ∧ x < r.base + r.size)) ∧
  (∀ (c : Config) (a n x : Nat), c.wf = true → rangeOK c a n = true → a ≤ x → x < a + n →
    x < c.mmioBase ∨ c.mmioBase + 256 ≤ x)

/-! ### Registers -/

/-- R26 and R37: the capability words, in a configuration that is not refused, and the packed descriptor words, as sums of
their fields; every other bit is 0. The capability registers read as these words and host writes to them are ignored. -/
def Obligations.CapabilityAndDescriptorWords : Prop :=
  (∀ c : Config, c.wf = true →
    (capWord0 c).toNat = c.nTx + 2 ^ 16 * c.nRx ∧
    (capWord1 c).toNat = c.cSlots + 2 ^ 16 * c.maxPathLen + 2 ^ 24 * c.txHdrBuf ∧
    (capWord2 c).toNat = c.txDataBuf + 2 ^ 24 * (if c.dlenOmit = .writeCmdNoReply then 1 else 0) +
      2 ^ 25 * c.replyRsvd.toNat ∧
    (capWord3 c).toNat = c.rxBuf) ∧
  (∀ (s : State) (k : Nat) (v : Word), k < 4 →
    regRead s (regAt (0x3C + 4 * k)) = [capWord0 s.cfg, capWord1 s.cfg, capWord2 s.cfg, capWord3 s.cfg].getD k 0 ∧
    hostStep (.writeReg (s.cfg.mmioBase + (0x3C + 4 * k)) .w32 v) s = .next s) ∧
  (∀ d : TxDesc,
    (d.packed false).toNat = d.en.toNat + 2 * d.wr.toNat + 4 * d.ie.toNat + 8 * d.hc.toNat + 16 * d.dc.toNat +
      2 ^ 8 * d.ncl.toNat + 2 ^ 16 * d.hlen.toNat ∧
    (d.packed true).toNat = d.dlen.toNat) ∧
  (∀ d : RxDesc,
    (d.packed false).toNat = d.en.toNat + 2 * d.wr.toNat + 4 * d.ie.toNat + 32 * d.tr.toNat ∧
    (d.packed true).toNat = d.size.toNat)

/-- R19 over the table of R18: a 32-bit aligned read of the window returns the register's value (bit by bit in STATUS,
CTRL and IRQ_STAT: R20, R22, R23), a write replaces an RW register, clears the bits of IRQ_STAT written as 1 and is
ignored by the RO and reserved ones, and nothing else changes; an access of another width or alignment is refused. That a
read is appended to `hostRegs` is the model's own observation (log entry 7). -/
def Obligations.HostRegisterAccess : Prop :=
  ∀ s : State,
    (∀ off, off < 256 → off % 4 = 0 →
      hostStep (.readReg (s.cfg.mmioBase + off) .w32) s =
        .next { s with hostRegs := s.hostRegs ++ [regRead s (regAt off)] }) ∧
    (regRead s (regAt 0x00) = s.lcmd ∧
      (regRead s (regAt 0x04)).toNat = s.status.code.value.toNat + 2 ^ 8 * s.status.busy.toNat +
        2 ^ 9 * s.status.warnLong.toNat + 2 ^ 10 * s.status.ovr.toNat ∧
      regRead s (regAt 0x08) = s.result ∧ regRead s (regAt 0x0C) = s.arg0 ∧ regRead s (regAt 0x10) = s.arg1 ∧
      regRead s (regAt 0x14) = s.arg2 ∧
      (regRead s (regAt 0x18)).toNat = s.ctrl.txie.toNat + 2 * s.ctrl.rxie.toNat + 4 * s.ctrl.pcrc.toNat ∧
      (regRead s (regAt 0x1C)).toNat = s.irq.txi.toNat + 2 * s.irq.rxi.toNat ∧
      regRead s (regAt 0x20) = s.txBytes ∧ regRead s (regAt 0x24) = s.rxBytes ∧ regRead s (regAt 0x28) = s.pend ∧
      regRead s (regAt 0x2C) = s.parseErrs ∧ regRead s (regAt 0x30) = s.unmatched ∧
      regRead s (regAt 0x34) = s.longWarns ∧ regRead s (regAt 0x38) = s.busErrs ∧
      regRead s (regAt 0x3C) = capWord0 s.cfg ∧ regRead s (regAt 0x40) = capWord1 s.cfg ∧
      regRead s (regAt 0x44) = capWord2 s.cfg ∧ regRead s (regAt 0x48) = capWord3 s.cfg ∧
      ∀ off, 0x4C ≤ off → regRead s (regAt off) = 0) ∧
    (∀ v : Word,
      hostStep (.writeReg (s.cfg.mmioBase + 0x0C) .w32 v) s = .next { s with arg0 := v } ∧
      hostStep (.writeReg (s.cfg.mmioBase + 0x10) .w32 v) s = .next { s with arg1 := v } ∧
      hostStep (.writeReg (s.cfg.mmioBase + 0x14) .w32 v) s = .next { s with arg2 := v } ∧
      hostStep (.writeReg (s.cfg.mmioBase + 0x18) .w32 v) s =
        .next { s with ctrl := ⟨v.getLsbD 0, v.getLsbD 1, v.getLsbD 2⟩ } ∧
      hostStep (.writeReg (s.cfg.mmioBase + 0x1C) .w32 v) s =
        .next { s with irq := ⟨s.irq.txi && !v.getLsbD 0, s.irq.rxi && !v.getLsbD 1⟩ } ∧
      hostStep (.writeReg (s.cfg.mmioBase + 0x20) .w32 v) s = .next { s with txBytes := v } ∧
      hostStep (.writeReg (s.cfg.mmioBase + 0x24) .w32 v) s = .next { s with rxBytes := v } ∧
      hostStep (.writeReg (s.cfg.mmioBase + 0x2C) .w32 v) s = .next { s with parseErrs := v } ∧
      hostStep (.writeReg (s.cfg.mmioBase + 0x30) .w32 v) s = .next { s with unmatched := v } ∧
      hostStep (.writeReg (s.cfg.mmioBase + 0x34) .w32 v) s = .next { s with longWarns := v } ∧
      hostStep (.writeReg (s.cfg.mmioBase + 0x38) .w32 v) s = .next { s with busErrs := v } ∧
      (∀ off, off < 256 → off % 4 = 0 →
        off = 0x04 ∨ off = 0x08 ∨ off = 0x28 ∨ 0x3C ≤ off →
        hostStep (.writeReg (s.cfg.mmioBase + off) .w32 v) s = .next s)) ∧
    (∀ (off : Nat) (width : AccessWidth) (v : Word), off < 256 → off % 4 ≠ 0 ∨ width ≠ .w32 →
      hostStep (.readReg (s.cfg.mmioBase + off) width) s = .refused .hostAccessForm ∧
      hostStep (.writeReg (s.cfg.mmioBase + off) width v) s = .refused .hostAccessForm)

/-- R27 and R29: what a host write to CMD does while free and while busy; what `finish` writes; and that no CORE step
depends on ARG0, ARG1 or ARG2, nor changes them, so that host writes to them after acceptance do not reach it. -/
def Obligations.CommandPort : Prop :=
  (∀ (s : State) (w : Word),
    (s.status.busy = false →
      hostStep (.writeReg s.cfg.mmioBase .w32 w) s =
        .next
          { s with
            lcmd := w, larg0 := s.arg0, larg1 := s.arg1, larg2 := s.arg2
            status := { code := s.status.code, busy := true, warnLong := false, ovr := false } }) ∧
    (s.status.busy = true →
      hostStep (.writeReg s.cfg.mmioBase .w32 w) s = .next { s with status := { s.status with ovr := true } })) ∧
  (∀ (c : Code) (s : State),
    finish c s =
      { s with
        status := { code := c, busy := false, warnLong := s.status.warnLong, ovr := s.status.ovr }
        drainMode := .none }) ∧
  (∀ (s : State) (x y z : Word), ∃ t : State,
    coreTurn s = .next t ∧
      coreTurn { s with arg0 := x, arg1 := y, arg2 := z } = .next { t with arg0 := x, arg1 := y, arg2 := z })

/-! ### Every command -/

/-- R28: every command completes in its one step, whatever the state and its operands, and frees the command port; DRAIN and
PENDING_COUNT complete their first step by starting a drain, the port as it was. -/
def Obligations.EveryCommandCompletes : Prop :=
  ∀ (i : Instr) (s : State),
    (i ≠ .drain → i ≠ .pendingCount →
      ∃ t : State, exec i s = .next t ∧ t.status.busy = false ∧ t.drainMode = .none ∧ t.status.ovr = s.status.ovr) ∧
    (i = .drain ∨ i = .pendingCount →
      ∃ t : State, exec i s = .next t ∧ t.status = s.status ∧ t.drainMode ≠ .none ∧ t.drainN = 0)

/-- R149: a command that finishes with a code other than OK and NONE changes nothing but STATUS, except that E_NODESC
keeps the reclamation, and a SUBMIT's its slot with the slot's id in RESULT. -/
def Obligations.ErrorsChangeOnlyStatus : Prop :=
  ∀ (i : Instr) (s t : State), i ≠ .drain → i ≠ .pendingCount → s.drainMode = .none → exec i s = .next t →
    t.status.code ≠ .ok → t.status.code ≠ .none →
    t = { s with status := t.status } ∨
    (t.status.code = .eNodesc ∧
      ((∃ hlen ncl : Byte, i = .txEnqueue hlen ncl ∧ t = { s with status := t.status, tx := txReclaim s.tx }) ∨
       (∃ (hd : Bool) (a : Word) (j : Nat) (u : State),
          ((i = .submitWrite ∧ hd = false ∧ a = 0) ∨ (i = .submitRead ∧ hd = true ∧ a = s.larg1)) ∧
          s.grab hd a = some (j, u) ∧
          t = { s with status := t.status, tx := txReclaim s.tx, slots := u.slots, pend := u.pend, result := wordOfNat j })))

/-- R148: the completion codes' values, and that each command finishes only with the codes the table gives it; a drain
finishes only with OK. -/
def Obligations.CompletionCodes : Prop :=
  (Code.ok.value = 0 ∧ Code.none.value = 1 ∧ Code.eInval.value = 2 ∧ Code.eNodesc.value = 3 ∧ Code.eParse.value = 4 ∧
    Code.eExhausted.value = 5 ∧ Code.eToobig.value = 6 ∧ Code.eBus.value = 7 ∧ Code.eBadop.value = 8) ∧
  (∀ (i : Instr) (s t : State), i ≠ .drain → i ≠ .pendingCount → exec i s = .next t → t.status.code ∈ codesOf i) ∧
  (∀ s : State, s.status.busy = true → (drainStep s).status.busy = false → (drainStep s).status.code = .ok)

/-- R155, with R154: CORE raises and clears no interrupt bit; LINK_TX sets TXI and LINK_RX sets RXI only for a descriptor
with IE; a bit is cleared only by a host write of 1 to it (or by reset); IRQ is the bits' disjunction. -/
def Obligations.InterruptSources : Prop :=
  ∀ (turn : Turn) (s t : State), takeTurn turn s = .next t →
    (turn = .core → t.irq = s.irq) ∧
    (t.irq.txi = true → s.irq.txi = true ∨
      (turn = .linkTx ∧ (s.tx.at s.tx.lptr.toNat).en = true ∧ (s.tx.at s.tx.lptr.toNat).ie = true)) ∧
    (t.irq.rxi = true → s.irq.rxi = true ∨
      (turn = .linkRx ∧ (s.rx.at s.rx.lptr.toNat).en = true ∧ (s.rx.at s.rx.lptr.toNat).ie = true)) ∧
    (s.irq.txi = true → t.irq.txi = true ∨ turn = .reset ∨
      ∃ v : Word, turn = .host (.writeReg (s.cfg.mmioBase + 0x1C) .w32 v) ∧ v.getLsbD 0 = true) ∧
    (s.irq.rxi = true → t.irq.rxi = true ∨ turn = .reset ∨
      ∃ v : Word, turn = .host (.writeReg (s.cfg.mmioBase + 0x1C) .w32 v) ∧ v.getLsbD 1 = true) ∧
    (t.irqLine = true ↔ t.irq.txi = true ∨ t.irq.rxi = true)

/-- R111: only CORE's steps (and reset) change the queues; a LINK_TX step changes at most descriptors' EN, its pointer,
IRQ_STAT and TXOUT; a LINK_RX step at most descriptors' EN, SIZE and TR, the buffers, its pointer and IRQ_STAT, and takes
the packet from the link. -/
def Obligations.WhoChangesWhat : Prop :=
  (∀ (act : HostAct) (s t : State), takeTurn (.host act) s = .next t → t.tx = s.tx ∧ t.rx = s.rx) ∧
  (∀ (p : List Byte) (s t : State), takeTurn (.arrive p) s = .next t → t.tx = s.tx ∧ t.rx = s.rx) ∧
  (∀ s t : State, takeTurn .linkTx s = .next t →
    t = { s with tx := { s.tx with desc := t.tx.desc, lptr := t.tx.lptr }, irq := t.irq, txOut := t.txOut } ∧
    t.tx.desc.length = s.tx.desc.length ∧ (∀ i, t.tx.at i = { s.tx.at i with en := (t.tx.at i).en }) ∧
    ∃ sent, t.txOut = s.txOut ++ sent) ∧
  (∀ s t : State, takeTurn .linkRx s = .next t →
    t =
      { s with
        rx := { s.rx with desc := t.rx.desc, buf := t.rx.buf, lptr := t.rx.lptr }, irq := t.irq, rxWire := t.rxWire } ∧
    t.rx.desc.length = s.rx.desc.length ∧
    (∀ i, t.rx.at i = { s.rx.at i with en := (t.rx.at i).en, size := (t.rx.at i).size, tr := (t.rx.at i).tr }) ∧
    ∃ taken, s.rxWire = taken ++ t.rxWire)

/-! ### The packet on the wire -/

/-- R74: the header base length of every shape, under both values of DLEN_OMIT and REPLY_RSVD. -/
def Obligations.BaseLengths : Prop :=
  ∀ (c : Config) (ib : Byte),
    (c.dlenOmit = .writeReply →
      baseLen c ib =
        if ib.getLsbD 6 then 15 else if ib.getLsbD 5 then 7 else if c.replyRsvd then 11 else 10) ∧
    (c.dlenOmit = .writeCmdNoReply →
      baseLen c ib =
        if ib.getLsbD 6 then (if ib.getLsbD 5 && !ib.getLsbD 3 then 12 else 15) else if c.replyRsvd then 11 else 10)

/-- R97: the bytes of `ser(p)`, position by position, each multi-byte field most significant byte first. -/
def Obligations.SerializedBytes : Prop :=
  ∀ (c : Config) (p : Pkt),
    let b := ser c p
    let n := p.pathLen.toNat
    let rl := p.rpathLen.toNat
    let o := n + 4 + rl + 3
    let o' := o + if isCmd p.instr then 5 else 0
    let o'' := o' + if hasRsvd c p.instr then 1 else 0
    b.length = o'' + (if omitsDlen c p.instr then 0 else 3) ∧
    (∀ k, k < n → byteAt b k = byteAt p.path k) ∧
    byteAt b n = p.dst ∧ byteAt b (n + 1) = 0x01 ∧ byteAt b (n + 2) = p.instr ∧ byteAt b (n + 3) = p.key ∧
    (∀ k, k < rl → byteAt b (n + 4 + k) = byteAt p.rpath k) ∧
    byteAt b (n + 4 + rl) = p.src ∧
    (byteAt b (n + 4 + rl + 1)).toNat = p.tid.toNat / 2 ^ 8 ∧ (byteAt b (n + 4 + rl + 2)).toNat = p.tid.toNat % 2 ^ 8 ∧
    (isCmd p.instr = true →
      byteAt b o = 0x00 ∧ (byteAt b (o + 1)).toNat = p.addr.toNat / 2 ^ 24 ∧
      (byteAt b (o + 2)).toNat = p.addr.toNat / 2 ^ 16 % 2 ^ 8 ∧
      (byteAt b (o + 3)).toNat = p.addr.toNat / 2 ^ 8 % 2 ^ 8 ∧ (byteAt b (o + 4)).toNat = p.addr.toNat % 2 ^ 8) ∧
    (hasRsvd c p.instr = true → byteAt b o' = 0x00) ∧
    (omitsDlen c p.instr = false →
      (byteAt b o'').toNat = p.dlen.toNat / 2 ^ 16 ∧ (byteAt b (o'' + 1)).toNat = p.dlen.toNat / 2 ^ 8 % 2 ^ 8 ∧
      (byteAt b (o'' + 2)).toNat = p.dlen.toNat % 2 ^ 8)

/-- R99 and R100: parsing fails at the first of the six checks that holds, and where none holds it extracts the fields at
their offsets, every byte it reads lying inside the buffer. -/
def Obligations.ParseFunction : Prop :=
  ∀ (c : Config) (pcrc : Bool) (b : List Byte),
    let len := b.length
    let ib := byteAt b 2
    let rl := if isCmd ib then 4 * (ib.toNat % 4) else 0
    let h := baseLen c ib + rl
    let dlen :=
      if omitsDlen c ib then 0
      else 2 ^ 16 * (byteAt b (h - 3)).toNat + 2 ^ 8 * (byteAt b (h - 2)).toNat + (byteAt b (h - 1)).toNat
    let noProtocol := len < 3 ∨ byteAt b 1 ≠ 0x01
    let badInstruction := 128 ≤ ib.toNat ∨ ib.toNat / 4 % 16 ∈ [0x0, 0x1, 0x4, 0x5, 0x6]
    let noHeader := len < baseLen c ib + 1
    let noReplyPath := isCmd ib = true ∧ len < baseLen c ib + 4 * (ib.toNat % 4) + 1
    let noData := 0 < dlen ∧ len < h + 1 + dlen + 1
    let badCrc := pcrc = true ∧
      (crc8 (slice b 0 h) ≠ byteAt b h ∨ (0 < dlen ∧ crc8 (slice b (h + 1) dlen) ≠ byteAt b (h + 1 + dlen)))
    (noProtocol → prs c pcrc b = .error .protocolId) ∧
    (¬ noProtocol → badInstruction → prs c pcrc b = .error .instruction) ∧
    (¬ noProtocol → ¬ badInstruction → noHeader → prs c pcrc b = .error .short) ∧
    (¬ noProtocol → ¬ badInstruction → ¬ noHeader → noReplyPath → prs c pcrc b = .error .replyPath) ∧
    (¬ noProtocol → ¬ badInstruction → ¬ noHeader → ¬ noReplyPath → noData → prs c pcrc b = .error .data) ∧
    (¬ noProtocol → ¬ badInstruction → ¬ noHeader → ¬ noReplyPath → ¬ noData → badCrc →
      prs c pcrc b = .error .crc) ∧
    (¬ noProtocol → ¬ badInstruction → ¬ noHeader → ¬ noReplyPath → ¬ noData → ¬ badCrc →
      ∃ r : Parsed, prs c pcrc b = .ok r ∧
        r.dst = byteAt b 0 ∧ r.ib = ib ∧ r.key = byteAt b 3 ∧ r.rl = rl ∧ r.rpath = slice b 4 rl ∧
        r.src = byteAt b (4 + rl) ∧
        r.tid.toNat = 2 ^ 8 * (byteAt b (5 + rl)).toNat + (byteAt b (6 + rl)).toNat ∧
        r.addr.toNat =
          (if isCmd ib then
            2 ^ 24 * (byteAt b (8 + rl)).toNat + 2 ^ 16 * (byteAt b (9 + rl)).toNat +
              2 ^ 8 * (byteAt b (10 + rl)).toNat + (byteAt b (11 + rl)).toNat
          else 0) ∧
        r.dlen.toNat = dlen ∧ r.hdrLen = h ∧ r.hcrc = byteAt b h ∧ r.payload = slice b (h + 1) dlen ∧
        r.payload.length = dlen ∧
        r.dcrc = (if dlen = 0 then 0 else byteAt b (h + 1 + dlen)) ∧
        r.need = (if dlen = 0 then h + 1 else h + 1 + dlen + 1) ∧ r.need ≤ len ∧
        (r.long = true ↔ r.need < len))

/-- R104: a packet serialized, with its CRCs and its data, parses back to its fields, under either value of CTRL.PCRC and
of the parameters. Bit 7 of `p.instr` is the reserved bit, 0 in every packet RMAP-CORE holds (R70; the invariant
`PktOk`). -/
def Obligations.CodecRoundTrip : Prop :=
  ∀ (c : Config) (pcrc : Bool) (p : Pkt) (d : List Byte),
    isReservedIb p.instr = false → legalCode (codeOf p.instr) = true → p.pathLen = 0 →
    (isCmd p.instr = true → p.rpathLen.toNat = 4 * (p.instr.toNat % 4)) → (isCmd p.instr = false → p.rpathLen = 0) →
    (omitsDlen c p.instr = true → p.dlen = 0) → d.length = p.dlen.toNat →
    let h := ser c p
    let w := h ++ [crc8 h] ++ (if 0 < p.dlen.toNat then d ++ [crc8 d] else [])
    ∃ r : Parsed, prs c pcrc w = .ok r ∧
      r.long = false ∧ r.need = w.length ∧ r.dst = p.dst ∧ r.src = p.src ∧ r.key = p.key ∧ r.ib = p.instr ∧
      r.tid = p.tid ∧ r.dlen = p.dlen ∧ r.rl = p.rpathLen.toNat ∧ r.rpath = pathBytes p.rpath p.rpathLen ∧
      (isCmd p.instr = true → r.addr = p.addr) ∧ r.payload = d ∧ r.hcrc = crc8 h ∧
      (0 < p.dlen.toNat → r.dcrc = crc8 d)

/-! ### The codec's commands -/

/-- R105: a codec command changes no state outside PKT, STATUS, RESULT, LONG_WARNS and the bytes SERIALIZE and PARSE
store. -/
def Obligations.CodecFrame : Prop :=
  ∀ (i : Instr) (s : State), unitOf i = .codec → Memory.wf s.lmem → s.drainMode = .none →
    ∃ t : State, exec i s = .next t ∧
      t =
        { s with
          pkt := t.pkt, status := t.status, result := t.result, longWarns := t.longWarns, lmem := t.lmem } ∧
      ∀ a, Memory.readByte t.lmem a ≠ Memory.readByte s.lmem a →
        (i = .serialize ∧ s.larg0.toNat ≤ a ∧ a < s.larg0.toNat + (ser s.cfg s.pkt).length) ∨
        (i = .parse ∧ ∃ r : Parsed,
          prs s.cfg s.ctrl.pcrc (Memory.read s.lmem s.larg0.toNat s.larg1.toNat) = .ok r ∧
          s.larg2.toNat ≤ a ∧ a < s.larg2.toNat + r.dlen.toNat)

/-- R84 to R87 and R90 to R92: PKT_CLEAR, the one-field builders and PKT_SET_DLEN. -/
def Obligations.PacketBuilders : Prop :=
  RunsAs 0x10000000#32 .pktClear ∧ RejectsReserved 0x10 0 ∧
  (∀ b : Byte, RunsAs (0x11000000#32 ||| b.setWidth 32) (.pktSetDst b)) ∧ RejectsReserved 0x11 8 ∧
  (∀ b : Byte, RunsAs (0x12000000#32 ||| b.setWidth 32) (.pktSetSrc b)) ∧ RejectsReserved 0x12 8 ∧
  (∀ b : Byte, RunsAs (0x13000000#32 ||| b.setWidth 32) (.pktSetKey b)) ∧ RejectsReserved 0x13 8 ∧
  (∀ h : BitVec 16, RunsAs (0x16000000#32 ||| h.setWidth 32) (.pktSetTid h)) ∧ RejectsReserved 0x16 16 ∧
  RunsAs 0x17000000#32 .pktSetAddr ∧ RejectsReserved 0x17 0 ∧
  RunsAs 0x18000000#32 .pktSetDlen ∧ RejectsReserved 0x18 0 ∧
  (∀ s : State, ∃ t : State, exec .pktClear s = .next t ∧
    t = finish .ok { s with pkt := t.pkt } ∧
    t.pkt.dst = 0 ∧ t.pkt.src = 0 ∧ t.pkt.key = 0 ∧ t.pkt.instr = 0 ∧ t.pkt.tid = 0 ∧ t.pkt.addr = 0 ∧ t.pkt.dlen = 0 ∧
    t.pkt.path = List.replicate s.cfg.maxPathLen 0 ∧ t.pkt.pathLen = 0 ∧ t.pkt.rpath = List.replicate 12 0 ∧
    t.pkt.rpathLen = 0 ∧ t.pkt.hcrc = 0 ∧ t.pkt.dcrc = 0 ∧
    exec .hdrSize t = .next (finish .eInval t) ∧ exec .serialize t = .next (finish .eInval t)) ∧
  (∀ (b : Byte) (s : State), exec (.pktSetDst b) s = .next (finish .ok { s with pkt := { s.pkt with dst := b } })) ∧
  (∀ (b : Byte) (s : State), exec (.pktSetSrc b) s = .next (finish .ok { s with pkt := { s.pkt with src := b } })) ∧
  (∀ (b : Byte) (s : State), exec (.pktSetKey b) s = .next (finish .ok { s with pkt := { s.pkt with key := b } })) ∧
  (∀ (h : BitVec 16) (s : State),
    exec (.pktSetTid h) s = .next (finish .ok { s with pkt := { s.pkt with tid := h } })) ∧
  (∀ s : State, exec .pktSetAddr s = .next (finish .ok { s with pkt := { s.pkt with addr := s.larg0 } })) ∧
  (∀ (s : State) (n : BitVec 24), s.larg0.toNat = n.toNat →
    exec .pktSetDlen s = .next (finish .ok { s with pkt := { s.pkt with dlen := n } })) ∧
  (∀ s : State, 2 ^ 24 ≤ s.larg0.toNat → exec .pktSetDlen s = .next (finish .eInval s))

/-- R88 and R89: PKT_SET_CMD sets the command direction and a legal code and keeps RAL; PKT_SET_REPLY clears the
direction bit and keeps every other. -/
def Obligations.InstructionByteBuilders : Prop :=
  (∀ code : BitVec 4, RunsAs (0x14000000#32 ||| code.setWidth 32) (.pktSetCmd code)) ∧ RejectsReserved 0x14 4 ∧
  RunsAs 0x15000000#32 .pktSetReply ∧ RejectsReserved 0x15 0 ∧
  (∀ (code : BitVec 4) (s : State), code.toNat ∈ [0x2, 0x3, 0x7, 0x8, 0x9, 0xA, 0xB, 0xC, 0xD, 0xE, 0xF] →
    ∃ ib : Byte, ib.toNat = 0x40 + 4 * code.toNat + s.pkt.instr.toNat % 4 ∧
      exec (.pktSetCmd code) s = .next (finish .ok { s with pkt := { s.pkt with instr := ib } })) ∧
  (∀ (code : BitVec 4) (s : State), code.toNat ∈ [0x0, 0x1, 0x4, 0x5, 0x6] →
    exec (.pktSetCmd code) s = .next (finish .eInval s)) ∧
  (∀ s : State, ∃ ib : Byte,
    (∀ k, k < 8 → ib.getLsbD k = if k = 6 then false else s.pkt.instr.getLsbD k) ∧
      exec .pktSetReply s = .next (finish .ok { s with pkt := { s.pkt with instr := ib } }))

/-- R93 and R94: PKT_SET_PATH and PKT_SET_RPATH, their checks in order, the bytes they copy, and the reply path's length
in `INSTR[1:0]`. -/
def Obligations.PathBuilders : Prop :=
  (∀ b : Byte, RunsAs (0x19000000#32 ||| b.setWidth 32) (.pktSetPath b)) ∧ RejectsReserved 0x19 8 ∧
  (∀ b : Byte, RunsAs (0x1A000000#32 ||| b.setWidth 32) (.pktSetRpath b)) ∧ RejectsReserved 0x1A 8 ∧
  (∀ (b : Byte) (s : State),
    (s.cfg.maxPathLen < b.toNat → exec (.pktSetPath b) s = .next (finish .eInval s)) ∧
    (b.toNat ≤ s.cfg.maxPathLen → rangeOK s.cfg s.larg0.toNat b.toNat = false →
      exec (.pktSetPath b) s = .next (finish .eBus s)) ∧
    (b.toNat ≤ s.cfg.maxPathLen → rangeOK s.cfg s.larg0.toNat b.toNat = true →
      ∃ path : List Byte,
        exec (.pktSetPath b) s = .next (finish .ok { s with pkt := { s.pkt with path := path, pathLen := b } }) ∧
        path.length = max b.toNat s.pkt.path.length ∧
        (∀ k, k < b.toNat → byteAt path k = Memory.readByte s.lmem (s.larg0.toNat + k)) ∧
        (∀ k, b.toNat ≤ k → byteAt path k = byteAt s.pkt.path k))) ∧
  (∀ (b : Byte) (s : State),
    (12 < b.toNat ∨ b.toNat % 4 ≠ 0 → exec (.pktSetRpath b) s = .next (finish .eInval s)) ∧
    (b.toNat ∈ [0, 4, 8, 12] → rangeOK s.cfg s.larg0.toNat b.toNat = false →
      exec (.pktSetRpath b) s = .next (finish .eBus s)) ∧
    (b.toNat ∈ [0, 4, 8, 12] → rangeOK s.cfg s.larg0.toNat b.toNat = true →
      ∃ (rpath : List Byte) (ib : Byte),
        exec (.pktSetRpath b) s =
          .next (finish .ok { s with pkt := { s.pkt with rpath := rpath, rpathLen := b, instr := ib } }) ∧
        ib.toNat = s.pkt.instr.toNat / 4 * 4 + b.toNat / 4 ∧
        rpath.length = max b.toNat s.pkt.rpath.length ∧
        (∀ k, k < b.toNat → byteAt rpath k = Memory.readByte s.lmem (s.larg0.toNat + k)) ∧
        (∀ k, b.toNat ≤ k → byteAt rpath k = byteAt s.pkt.rpath k)))

/-- R95: PKT_GET, selector by selector. -/
def Obligations.PacketGet : Prop :=
  (∀ (sel : BitVec 4) (idx : Byte),
    RunsAs (0x1B000000#32 ||| (idx.setWidth 32 <<< 4) ||| sel.setWidth 32) (.pktGet sel idx)) ∧
  RejectsReserved 0x1B 12 ∧
  ∀ (idx : Byte) (s : State),
    exec (.pktGet 0 idx) s = .next (finishWith .ok (s.pkt.dst.setWidth 32) s) ∧
    exec (.pktGet 1 idx) s = .next (finishWith .ok (s.pkt.src.setWidth 32) s) ∧
    exec (.pktGet 2 idx) s = .next (finishWith .ok (s.pkt.key.setWidth 32) s) ∧
    exec (.pktGet 3 idx) s = .next (finishWith .ok (s.pkt.instr.setWidth 32) s) ∧
    exec (.pktGet 4 idx) s = .next (finishWith .ok (s.pkt.tid.setWidth 32) s) ∧
    exec (.pktGet 5 idx) s = .next (finishWith .ok s.pkt.addr s) ∧
    exec (.pktGet 6 idx) s = .next (finishWith .ok (s.pkt.dlen.setWidth 32) s) ∧
    exec (.pktGet 7 idx) s = .next (finishWith .ok (s.pkt.pathLen.setWidth 32) s) ∧
    exec (.pktGet 8 idx) s = .next (finishWith .ok (s.pkt.rpathLen.setWidth 32) s) ∧
    exec (.pktGet 9 idx) s = .next (finishWith .ok (s.pkt.hcrc.setWidth 32) s) ∧
    exec (.pktGet 10 idx) s = .next (finishWith .ok (s.pkt.dcrc.setWidth 32) s) ∧
    (idx.toNat < s.pkt.pathLen.toNat →
      exec (.pktGet 11 idx) s = .next (finishWith .ok ((byteAt s.pkt.path idx.toNat).setWidth 32) s)) ∧
    (s.pkt.pathLen.toNat ≤ idx.toNat → exec (.pktGet 11 idx) s = .next (finish .eInval s)) ∧
    (idx.toNat < s.pkt.rpathLen.toNat →
      exec (.pktGet 12 idx) s = .next (finishWith .ok ((byteAt s.pkt.rpath idx.toNat).setWidth 32) s)) ∧
    (s.pkt.rpathLen.toNat ≤ idx.toNat → exec (.pktGet 12 idx) s = .next (finish .eInval s)) ∧
    (∀ sel : BitVec 4, 13 ≤ sel.toNat → exec (.pktGet sel idx) s = .next (finish .eInval s))

/-- R96: HDR_SIZE gives the length of what SERIALIZE writes, the paths' lengths and the base together. -/
def Obligations.HeaderSize : Prop :=
  RunsAs 0x20000000#32 .hdrSize ∧ RejectsReserved 0x20 0 ∧
  (∀ s : State, legalCode (codeOf s.pkt.instr) = false → exec .hdrSize s = .next (finish .eInval s)) ∧
  (∀ s : State, legalCode (codeOf s.pkt.instr) = true →
    ∃ v : Word, exec .hdrSize s = .next (finishWith .ok v s) ∧
      v.toNat = s.pkt.pathLen.toNat + s.pkt.rpathLen.toNat + baseLen s.cfg s.pkt.instr ∧
      v.toNat = (ser s.cfg s.pkt).length)

/-- R98: SERIALIZE, its checks in order; it stores `ser(PKT)` at LARG0 and every other byte reads as before. -/
def Obligations.SerializeCommand : Prop :=
  RunsAs 0x21000000#32 .serialize ∧ RejectsReserved 0x21 0 ∧
  ∀ s : State,
    (legalCode (codeOf s.pkt.instr) = false → exec .serialize s = .next (finish .eInval s)) ∧
    (legalCode (codeOf s.pkt.instr) = true → rangeOK s.cfg s.larg0.toNat (ser s.cfg s.pkt).length = false →
      exec .serialize s = .next (finish .eBus s)) ∧
    (legalCode (codeOf s.pkt.instr) = true → rangeOK s.cfg s.larg0.toNat (ser s.cfg s.pkt).length = true →
      Memory.wf s.lmem →
      ∃ t : State, exec .serialize s = .next t ∧
        t = { finishWith .ok (wordOfNat (ser s.cfg s.pkt).length) s with lmem := t.lmem } ∧
        Memory.read t.lmem s.larg0.toNat (ser s.cfg s.pkt).length = ser s.cfg s.pkt ∧
        ∀ a, a < s.larg0.toNat ∨ s.larg0.toNat + (ser s.cfg s.pkt).length ≤ a →
          Memory.readByte t.lmem a = Memory.readByte s.lmem a)

/-- R103: PARSE, its checks in order; on success PKT takes the parsed fields, the payload is stored at LARG2, a long
buffer is warned of and counted, and RESULT is the packet's length; every other byte reads as before. -/
def Obligations.ParseCommand : Prop :=
  RunsAs 0x22000000#32 .parse ∧ RejectsReserved 0x22 0 ∧
  ∀ s : State,
    let b := Memory.read s.lmem s.larg0.toNat s.larg1.toNat
    (rangeOK s.cfg s.larg0.toNat s.larg1.toNat = false → exec .parse s = .next (finish .eBus s)) ∧
    (∀ e : ParseFail, rangeOK s.cfg s.larg0.toNat s.larg1.toNat = true → prs s.cfg s.ctrl.pcrc b = .error e →
      exec .parse s = .next (finish .eParse s)) ∧
    (∀ r : Parsed, rangeOK s.cfg s.larg0.toNat s.larg1.toNat = true → prs s.cfg s.ctrl.pcrc b = .ok r →
      (rangeOK s.cfg s.larg2.toNat r.dlen.toNat = false → exec .parse s = .next (finish .eBus s)) ∧
      (rangeOK s.cfg s.larg2.toNat r.dlen.toNat = true → Memory.wf s.lmem →
        ∃ t : State, exec .parse s = .next t ∧
          t =
            { s with
              status := { code := .ok, busy := false, warnLong := s.status.warnLong || r.long, ovr := s.status.ovr }
              drainMode := .none
              result := wordOfNat r.need
              longWarns := if r.long then s.longWarns + 1 else s.longWarns
              pkt := t.pkt
              lmem := t.lmem } ∧
          t.pkt =
            { dst := r.dst, src := r.src, key := r.key, instr := r.ib, tid := r.tid, addr := r.addr, dlen := r.dlen
              path := s.pkt.path, pathLen := 0, rpath := t.pkt.rpath, rpathLen := BitVec.ofNat 8 r.rl
              hcrc := r.hcrc, dcrc := r.dcrc } ∧
          (∀ k, k < r.rl → byteAt t.pkt.rpath k = byteAt r.rpath k) ∧
          (∀ k, r.rl ≤ k → byteAt t.pkt.rpath k = byteAt s.pkt.rpath k) ∧
          Memory.read t.lmem s.larg2.toNat r.dlen.toNat = r.payload ∧
          ∀ a, a < s.larg2.toNat ∨ s.larg2.toNat + r.dlen.toNat ≤ a →
            Memory.readByte t.lmem a = Memory.readByte s.lmem a))

/-! ### The link agents -/

/-- R107: a LINK_TX step at an enabled descriptor sends its header, the header's CRC past the non-CRC prefix, its data and
the data's CRC, disables it, raises TXI if its IE is set, and moves the pointer. -/
def Obligations.LinkTransmitStep : Prop :=
  ∀ s : State, (s.tx.at s.tx.lptr.toNat).en = true →
    let i := s.tx.lptr.toNat
    let d := s.tx.at i
    let h := s.tx.hdrBytes i d.hlen.toNat
    let x := s.tx.dataBytes i d.dlen.toNat
    takeTurn .linkTx s =
      .next
        { s with
          txOut :=
            s.txOut ++
              [h ++ (if d.hc then [crc8 (h.drop d.ncl.toNat)] else []) ++ x ++ (if d.dc then [crc8 x] else [])]
          irq := { s.irq with txi := s.irq.txi || d.ie }
          tx :=
            { s.tx with
              desc := s.tx.desc.set i { d with en := false }
              lptr := if d.wr then 0 else s.tx.lptr + 1 } }

/-- R109: a LINK_RX step for the next packet at an enabled descriptor stores as much of it as fits, records its size and
whether it was cut, disables the descriptor, raises RXI if its IE is set, and moves the pointer. -/
def Obligations.LinkReceiveStep : Prop :=
  ∀ (s : State) (p : List Byte) (wire : List (List Byte)), RxRingOk s → s.cfg.rxBuf < 2 ^ 24 → s.rxWire = p :: wire →
    p.length < 2 ^ 24 → (s.rx.at s.rx.lptr.toNat).en = true →
    let i := s.rx.lptr.toNat
    let d := s.rx.at i
    let m := min p.length s.cfg.rxBuf
    ∃ (t : State) (size : BitVec 24), takeTurn .linkRx s = .next t ∧ size.toNat = m ∧
      t =
        { s with
          rxWire := wire
          irq := { s.irq with rxi := s.irq.rxi || d.ie }
          rx :=
            { s.rx with
              desc := s.rx.desc.set i { d with size := size, tr := s.cfg.rxBuf < p.length, en := false }
              buf := t.rx.buf
              lptr := if d.wr then 0 else s.rx.lptr + 1 } } ∧
      t.rx.bytes i m = p.take m ∧
      (∀ k, m ≤ k → (t.rx.buf.getD i []).getD k (Config.freeRxByte i k) = (s.rx.buf.getD i []).getD k (Config.freeRxByte i k)) ∧
      ∀ j, j ≠ i → t.rx.buf.getD j [] = s.rx.buf.getD j []

/-- R106: the scan order. Each link serves the descriptors in the order 0, 1, .., N-1, 0, ..: after a step at an enabled
descriptor the pointer is the next index modulo N. That a link waiting at a descriptor not enabled, or LINK_RX with no
packet waiting, lets its turn pass with nothing changed is the model's form of "it has no step" (log entry 3). -/
def Obligations.ScanOrder : Prop :=
  ∀ s t : State, Inv s →
    (takeTurn .linkTx s = .next t →
      ((s.tx.at s.tx.lptr.toNat).en = true → t.tx.lptr.toNat = (s.tx.lptr.toNat + 1) % s.cfg.nTx) ∧
      ((s.tx.at s.tx.lptr.toNat).en = false → t = s)) ∧
    (takeTurn .linkRx s = .next t →
      ((s.rx.at s.rx.lptr.toNat).en = true → s.rxWire ≠ [] →
        t.rx.lptr.toNat = (s.rx.lptr.toNat + 1) % s.cfg.nRx) ∧
      ((s.rx.at s.rx.lptr.toNat).en = false ∨ s.rxWire = [] → t = s))

/-- R35, R36: what nothing has written to the buffer arena is never observed. The packet LINK_TX sends, and the packet
RX_FETCH and a drain step read, consist of bytes written to the buffers: no free value of Config is in them. -/
def Obligations.ArenaNeverObserved : Prop :=
  ∀ s : State, Inv s →
    (∀ i, (s.tx.at i).en = true →
      s.tx.hdrBytes i (s.tx.at i).hlen.toNat = (s.tx.hdr.getD i []).take (s.tx.at i).hlen.toNat ∧
      s.tx.dataBytes i (s.tx.at i).dlen.toNat = (s.tx.data.getD i []).take (s.tx.at i).dlen.toNat) ∧
    (∀ i, s.rx.bytes i (s.rx.at i).size.toNat = (s.rx.buf.getD i []).take (s.rx.at i).size.toNat)

/-! ### The rings' procedures and commands -/

/-- R112, R115, R116: reclamation takes exactly the drained descriptors at the head of the busy queue, in order; a packet is
ready iff the head of the busy queue is not enabled; re-arming moves that head through the free queue. -/
def Obligations.QueueProcedures : Prop :=
  (∀ (r : TxRing) (drained rest : List Nat), r.busy = drained ++ rest → (∀ i ∈ drained, (r.at i).en = false) →
    (∀ i, rest.head? = some i → (r.at i).en = true) →
    txReclaim r = { r with free := r.free ++ drained, busy := rest }) ∧
  (∀ (r : RxRing) (i : Nat), rxHead r = some i ↔ r.busy.head? = some i ∧ (r.at i).en = false) ∧
  (∀ (r : RxRing) (ie : Bool) (i j : Nat) (busy free : List Nat), r.busy = i :: busy → r.free ++ [i] = j :: free →
    rxRearm r ie =
      { r with
        desc := r.desc.set j { r.at j with size := 0, tr := false, ie := ie, en := true }
        free := free
        busy := busy ++ [j] })

/-- R113: filling a descriptor takes the head of the free queue, copies header and data into its buffers, sets its
fields, puts it at the tail of the busy queue and counts the bytes; every other descriptor and buffer stays. -/
def Obligations.FillDescriptor : Prop :=
  ∀ (s : State) (h x : List Byte) (ncl : Byte) (i : Nat) (free : List Nat), TxRingOk s → s.tx.free = i :: free →
    h.length < 2 ^ 8 → x.length < 2 ^ 24 →
    ∃ (t : State) (hlen : Byte) (dlen : BitVec 24), s.txFill h ncl x = t ∧
      hlen.toNat = h.length ∧ dlen.toNat = x.length ∧
      t =
        { s with
          txBytes := t.txBytes
          tx :=
            { s.tx with
              desc :=
                s.tx.desc.set i
                  { en := true, wr := (s.tx.at i).wr, ie := s.ctrl.txie, hc := true, dc := decide (0 < x.length)
                    ncl := ncl, hlen := hlen, dlen := dlen }
              hdr := t.tx.hdr
              data := t.tx.data
              free := free
              busy := s.tx.busy ++ [i] } } ∧
      t.txBytes.toNat = (s.txBytes.toNat + h.length + x.length) % 2 ^ 32 ∧
      t.tx.hdrBytes i h.length = h ∧ t.tx.dataBytes i x.length = x ∧
      ∀ j, j ≠ i → t.tx.hdr.getD j [] = s.tx.hdr.getD j [] ∧ t.tx.data.getD j [] = s.tx.data.getD j []

/-- R118 and R119: TX_INIT frees every descriptor; RX_INIT frees and then arms every descriptor, its IE that of
CTRL.RXIE. The buffers, TX_BYTES, IRQ_STAT and the slots stay. -/
def Obligations.RingInit : Prop :=
  RunsAs 0x30000000#32 .txInit ∧ RejectsReserved 0x30 0 ∧ RunsAs 0x31000000#32 .rxInit ∧ RejectsReserved 0x31 0 ∧
  (∀ s : State,
    exec .txInit s =
      .next (finish .ok
        { s with
          tx :=
            { s.tx with
              desc := (List.range s.cfg.nTx).map fun i =>
                { en := false, wr := i + 1 == s.cfg.nTx, ie := false, hc := false, dc := false, ncl := 0, hlen := 0
                  dlen := 0 }
              free := List.range s.cfg.nTx
              busy := []
              lptr := 0 } })) ∧
  (∀ s : State,
    exec .rxInit s =
      .next (finish .ok
        { s with
          rx :=
            { s.rx with
              desc := (List.range s.cfg.nRx).map fun i =>
                { en := true, wr := i + 1 == s.cfg.nRx, ie := s.ctrl.rxie, tr := false, size := 0 }
              free := []
              busy := List.range s.cfg.nRx
              lptr := 0 } }))

/-- R120: TX_ENQUEUE, its checks in order; then it reclaims, and fills a descriptor or ends E_NODESC with the reclamation
kept. RESULT and local memory stay in every case. -/
def Obligations.TxEnqueueCommand : Prop :=
  (∀ hlen ncl : Byte,
    RunsAs (0x32000000#32 ||| (ncl.setWidth 32 <<< 8) ||| hlen.setWidth 32) (.txEnqueue hlen ncl)) ∧
  RejectsReserved 0x32 16 ∧
  ∀ (hlen ncl : Byte) (s : State),
    (hlen = 0 ∨ hlen.toNat < ncl.toNat → exec (.txEnqueue hlen ncl) s = .next (finish .eInval s)) ∧
    (hlen ≠ 0 → ncl.toNat ≤ hlen.toNat →
      (s.cfg.txHdrBuf < hlen.toNat ∨ s.cfg.txDataBuf < s.larg2.toNat →
        exec (.txEnqueue hlen ncl) s = .next (finish .eToobig s)) ∧
      (hlen.toNat ≤ s.cfg.txHdrBuf → s.larg2.toNat ≤ s.cfg.txDataBuf →
        (rangeOK s.cfg s.larg0.toNat hlen.toNat = false ∨ rangeOK s.cfg s.larg1.toNat s.larg2.toNat = false →
          exec (.txEnqueue hlen ncl) s = .next (finish .eBus s)) ∧
        (rangeOK s.cfg s.larg0.toNat hlen.toNat = true → rangeOK s.cfg s.larg1.toNat s.larg2.toNat = true →
          ((txReclaim s.tx).free = [] →
            exec (.txEnqueue hlen ncl) s = .next (finish .eNodesc { s with tx := txReclaim s.tx })) ∧
          ((txReclaim s.tx).free ≠ [] →
            exec (.txEnqueue hlen ncl) s =
              .next (finish .ok
                ({ s with tx := txReclaim s.tx }.txFill (Memory.read s.lmem s.larg0.toNat hlen.toNat) ncl
                  (Memory.read s.lmem s.larg1.toNat s.larg2.toNat)))))))

/-- R121 and R123: RX_POLL reports the packet at the head without consuming it; RX_DROP consumes it and re-arms, counting
nothing; with nothing ready both give NONE and RESULT 0. -/
def Obligations.RxPollAndDrop : Prop :=
  RunsAs 0x33000000#32 .rxPoll ∧ RejectsReserved 0x33 0 ∧ RunsAs 0x35000000#32 .rxDrop ∧ RejectsReserved 0x35 0 ∧
  (∀ s : State, rxHead s.rx = none →
    exec .rxPoll s = .next (finishWith .none 0 s) ∧ exec .rxDrop s = .next (finishWith .none 0 s)) ∧
  (∀ (s : State) (i : Nat), rxHead s.rx = some i →
    ∃ v : Word, v.toNat = 2 ^ 31 * (s.rx.at i).tr.toNat + (s.rx.at i).size.toNat ∧
      exec .rxPoll s = .next (finishWith .ok v s) ∧
      exec .rxDrop s = .next (finishWith .ok v { s with rx := rxRearm s.rx s.ctrl.rxie }))

/-- R122: RX_FETCH stores the packet at the head at LARG0, counts its bytes and re-arms; every other byte reads as before;
with nothing ready it gives NONE, and with a destination that fails RangeOK it consumes nothing. -/
def Obligations.RxFetchCommand : Prop :=
  RunsAs 0x34000000#32 .rxFetch ∧ RejectsReserved 0x34 0 ∧
  (∀ s : State, rxHead s.rx = none → exec .rxFetch s = .next (finishWith .none 0 s)) ∧
  (∀ (s : State) (i : Nat), rxHead s.rx = some i →
    (rangeOK s.cfg s.larg0.toNat (s.rx.at i).size.toNat = false → exec .rxFetch s = .next (finish .eBus s)) ∧
    (rangeOK s.cfg s.larg0.toNat (s.rx.at i).size.toNat = true → Memory.wf s.lmem →
      ∃ (t : State) (v : Word), exec .rxFetch s = .next t ∧
        v.toNat = 2 ^ 31 * (s.rx.at i).tr.toNat + (s.rx.at i).size.toNat ∧
        t =
          { finishWith .ok v s with
            rxBytes := s.rxBytes + (s.rx.at i).size.setWidth 32
            rx := rxRearm s.rx s.ctrl.rxie
            lmem := t.lmem } ∧
        Memory.read t.lmem s.larg0.toNat (s.rx.at i).size.toNat = s.rx.bytes i (s.rx.at i).size.toNat ∧
        ∀ a, a < s.larg0.toNat ∨ s.larg0.toNat + (s.rx.at i).size.toNat ≤ a →
          Memory.readByte t.lmem a = Memory.readByte s.lmem a))

/-- R124 and R125: DESC_READ and RING_STAT, which change nothing but STATUS and RESULT. -/
def Obligations.RingReads : Prop :=
  (∀ (idx : BitVec 16) (word : Bool),
    RunsAs (0x36000000#32 ||| ((BitVec.ofBool word).setWidth 32 <<< 17) ||| idx.setWidth 32) (.descRead idx .tx word) ∧
    RunsAs (0x36010000#32 ||| ((BitVec.ofBool word).setWidth 32 <<< 17) ||| idx.setWidth 32) (.descRead idx .rx word)) ∧
  RejectsReserved 0x36 18 ∧
  (∀ sel : Bool,
    RunsAs (0x37000000#32 ||| ((BitVec.ofBool sel).setWidth 32 <<< 1)) (.ringStat .tx sel) ∧
    RunsAs (0x37000001#32 ||| ((BitVec.ofBool sel).setWidth 32 <<< 1)) (.ringStat .rx sel)) ∧
  RejectsReserved 0x37 2 ∧
  (∀ (idx : BitVec 16) (word : Bool) (s : State),
    (s.cfg.nTx ≤ idx.toNat → exec (.descRead idx .tx word) s = .next (finish .eInval s)) ∧
    (idx.toNat < s.cfg.nTx →
      exec (.descRead idx .tx word) s = .next (finishWith .ok ((s.tx.at idx.toNat).packed word) s)) ∧
    (s.cfg.nRx ≤ idx.toNat → exec (.descRead idx .rx word) s = .next (finish .eInval s)) ∧
    (idx.toNat < s.cfg.nRx →
      exec (.descRead idx .rx word) s = .next (finishWith .ok ((s.rx.at idx.toNat).packed word) s))) ∧
  (∀ (ring : Ring) (s : State),
    let free := match ring with | .tx => s.tx.free | .rx => s.rx.free
    let busy := match ring with | .tx => s.tx.busy | .rx => s.rx.busy
    let lptr := match ring with | .tx => s.tx.lptr | .rx => s.rx.lptr
    (∃ v : Word, exec (.ringStat ring false) s = .next (finishWith .ok v s) ∧
      (busy.length < 2 ^ 16 → free.length < 2 ^ 16 → v.toNat = 2 ^ 16 * busy.length + free.length)) ∧
    (∃ v : Word, exec (.ringStat ring true) s = .next (finishWith .ok v s) ∧
      (busy = [] → v.toNat = 2 ^ 16 * lptr.toNat + 0xFFFF) ∧
      (∀ i, busy.head? = some i → i < 2 ^ 16 → v.toNat = 2 ^ 16 * lptr.toNat + i)))

/-- R126: ring exhaustion. From the state TX_INIT leaves, N_TX valid TX_ENQUEUEs give OK and the next E_NODESC; after `k`
LINK_TX steps exactly `k` more give OK before the next E_NODESC. -/
def Obligations.RingExhaustion : Prop :=
  ∀ s s0 : State, Inv s → exec .txInit s = .next s0 →
    ∀ ks : List Command, ks.length = s.cfg.nTx → (∀ k ∈ ks, k.validEnqueue s.cfg) →
    ∃ (codes : List (Code × Word)) (s1 : State), runCommands ks s0 = some (codes, s1) ∧
      codes.map (·.1) = List.replicate s.cfg.nTx .ok ∧
      ∀ k : Command, k.validEnqueue s.cfg →
        ∃ s2 : State, k.run s1 = .next s2 ∧ s2.status.code = .eNodesc ∧
          ∀ more : List Command, more.length ≤ s.cfg.nTx → (∀ m ∈ more, m.validEnqueue s.cfg) →
            ∃ (codes' : List (Code × Word)) (s3 : State),
              runCommands (more ++ [k]) (linkTxStep^[more.length] s2) = some (codes', s3) ∧
              codes'.map (·.1) = List.replicate more.length .ok ++ [.eNodesc]

/-! ### The transaction log -/

/-- R130, R131, R132: `match`, `grab` and `release` on a table of C_SLOTS slots. -/
def Obligations.SlotProcedures : Prop :=
  ∀ s : State, s.slots.length = s.cfg.cSlots →
    (∀ t : Nat, s.slotMatch t = true ↔ t < s.cfg.cSlots ∧ (s.slot t).used = true) ∧
    (∀ (hd : Bool) (a : Word),
      ((∀ j, j < s.cfg.cSlots → (s.slot j).used = true) → s.grab hd a = none) ∧
      (∀ j, j < s.cfg.cSlots → (s.slot j).used = false → (∀ k, k < j → (s.slot k).used = true) →
        s.grab hd a = some (j, { s with slots := s.slots.set j ⟨true, hd, a⟩, pend := s.pend + 1 }))) ∧
    (∀ j : Nat,
      (j < s.cfg.cSlots → (s.slot j).used = true →
        s.release j = { s with slots := s.slots.set j ⟨false, false, 0⟩, pend := s.pend - 1 }) ∧
      (s.cfg.cSlots ≤ j ∨ (s.slot j).used = false → s.release j = s))

/-- R134 to R138: TL_GRAB, TL_RELEASE, TL_QUERY, TL_RESET and LINK_LOAD. -/
def Obligations.SlotCommands : Prop :=
  RunsAs 0x40000000#32 (.tlGrab false) ∧ RunsAs 0x40000001#32 (.tlGrab true) ∧ RejectsReserved 0x40 1 ∧
  (∀ id : BitVec 16, RunsAs (0x41000000#32 ||| id.setWidth 32) (.tlRelease id)) ∧ RejectsReserved 0x41 16 ∧
  (∀ id : BitVec 16, RunsAs (0x42000000#32 ||| id.setWidth 32) (.tlQuery id false) ∧
    RunsAs (0x42010000#32 ||| id.setWidth 32) (.tlQuery id true)) ∧ RejectsReserved 0x42 17 ∧
  RunsAs 0x43000000#32 .tlReset ∧ RejectsReserved 0x43 0 ∧ RunsAs 0x44000000#32 .linkLoad ∧ RejectsReserved 0x44 0 ∧
  (∀ (hd : Bool) (s : State),
    (s.grab hd s.larg0 = none → exec (.tlGrab hd) s = .next (finish .eExhausted s)) ∧
    (∀ (j : Nat) (u : State), s.grab hd s.larg0 = some (j, u) →
      exec (.tlGrab hd) s = .next (finishWith .ok (wordOfNat j) u))) ∧
  (∀ (id : BitVec 16) (s : State), exec (.tlRelease id) s = .next (finish .ok (s.release id.toNat))) ∧
  (∀ (id : BitVec 16) (s : State),
    (s.cfg.cSlots ≤ id.toNat → ∀ word : Bool, exec (.tlQuery id word) s = .next (finish .eInval s)) ∧
    (id.toNat < s.cfg.cSlots →
      (∃ v : Word, v.toNat = 2 * (s.slot id.toNat).hd.toNat + (s.slot id.toNat).used.toNat ∧
        exec (.tlQuery id false) s = .next (finishWith .ok v s)) ∧
      exec (.tlQuery id true) s = .next (finishWith .ok (s.slot id.toNat).laddr s))) ∧
  (∀ s : State, SlotsOk s →
    exec .tlReset s =
      .next (finish .ok { s with slots := List.replicate s.cfg.cSlots ⟨false, false, 0⟩, pend := 0 })) ∧
  (∀ s : State, ∃ t : State, exec .linkLoad s = .next t ∧ t = finish .ok { s with link := t.link } ∧
    t.link.dst = s.pkt.dst ∧ t.link.src = s.pkt.src ∧ t.link.key = s.pkt.key ∧ t.link.path = s.pkt.path ∧
    t.link.pathLen = s.pkt.pathLen ∧ t.link.rpath = s.pkt.rpath ∧ t.link.rpathLen = s.pkt.rpathLen)

/-- R139 to R141: SUBMIT_WRITE and SUBMIT_READ, their checks in order; then they take the lowest free slot, whose id is the
transaction id, reclaim, and queue the manager's packet with the path as the non-CRC prefix, or end E_NODESC with the slot
kept. -/
def Obligations.SubmitCommands : Prop :=
  RunsAs 0x45000000#32 .submitWrite ∧ RejectsReserved 0x45 0 ∧ RunsAs 0x46000000#32 .submitRead ∧
  RejectsReserved 0x46 0 ∧
  ∀ s : State, LinkOk s →
    let hl := s.link.pathLen.toNat + s.link.rpathLen.toNat + 15
    let rl := 10 + s.cfg.replyRsvd.toNat + 1 + (if 0 < s.larg2.toNat then s.larg2.toNat + 1 else 0)
    let header := fun (ib : Nat) (j : Nat) =>
      pathBytes s.link.path s.link.pathLen ++
        [s.link.dst, 0x01, BitVec.ofNat 8 (ib + s.link.rpathLen.toNat / 4), s.link.key] ++
        pathBytes s.link.rpath s.link.rpathLen ++ [s.link.src] ++ be16 (BitVec.ofNat 16 j) ++
        [0x00] ++ be32 s.larg0 ++ be24 (BitVec.ofNat 24 s.larg2.toNat)
    (2 ^ 24 ≤ s.larg2.toNat →
      exec .submitWrite s = .next (finish .eInval s) ∧ exec .submitRead s = .next (finish .eInval s)) ∧
    (s.larg2.toNat < 2 ^ 24 →
      (s.cfg.txHdrBuf < hl ∨ s.cfg.txDataBuf < s.larg2.toNat →
        exec .submitWrite s = .next (finish .eToobig s)) ∧
      (s.cfg.txHdrBuf < hl ∨ s.cfg.rxBuf < rl → exec .submitRead s = .next (finish .eToobig s)) ∧
      (hl ≤ s.cfg.txHdrBuf → s.larg2.toNat ≤ s.cfg.txDataBuf →
        (rangeOK s.cfg s.larg1.toNat s.larg2.toNat = false → exec .submitWrite s = .next (finish .eBus s)) ∧
        (rangeOK s.cfg s.larg1.toNat s.larg2.toNat = true →
          (s.grab false 0 = none → exec .submitWrite s = .next (finish .eExhausted s)) ∧
          (∀ (j : Nat) (u : State), s.grab false 0 = some (j, u) →
            ((txReclaim s.tx).free = [] →
              exec .submitWrite s = .next (finishWith .eNodesc (wordOfNat j) { u with tx := txReclaim s.tx })) ∧
            ((txReclaim s.tx).free ≠ [] →
              (header 0x6C j).length = hl ∧
              exec .submitWrite s =
                .next (finishWith .ok (wordOfNat j)
                  ({ u with tx := txReclaim s.tx }.txFill (header 0x6C j) s.link.pathLen
                    (Memory.read s.lmem s.larg1.toNat s.larg2.toNat))))))) ∧
      (hl ≤ s.cfg.txHdrBuf → rl ≤ s.cfg.rxBuf →
        (rangeOK s.cfg s.larg1.toNat s.larg2.toNat = false → exec .submitRead s = .next (finish .eBus s)) ∧
        (rangeOK s.cfg s.larg1.toNat s.larg2.toNat = true →
          (s.grab true s.larg1 = none → exec .submitRead s = .next (finish .eExhausted s)) ∧
          (∀ (j : Nat) (u : State), s.grab true s.larg1 = some (j, u) →
            ((txReclaim s.tx).free = [] →
              exec .submitRead s = .next (finishWith .eNodesc (wordOfNat j) { u with tx := txReclaim s.tx })) ∧
            ((txReclaim s.tx).free ≠ [] →
              (header 0x4C j).length = hl ∧
              exec .submitRead s =
                .next (finishWith .ok (wordOfNat j)
                  ({ u with tx := txReclaim s.tx }.txFill (header 0x4C j) s.link.pathLen [])))))))

/-- R142 and R144: DRAIN and PENDING_COUNT start a drain, BUSY staying as it is; each CORE turn of a drain is one drain
step; and the drain step that finds nothing ready finishes OK, with the number of packets consumed or with PEND. -/
def Obligations.DrainStartAndEnd : Prop :=
  RunsAs 0x47000000#32 .drain ∧ RejectsReserved 0x47 0 ∧ RunsAs 0x48000000#32 .pendingCount ∧ RejectsReserved 0x48 0 ∧
  (∀ s : State, exec .drain s = .next { s with drainMode := .drain, drainN := 0 }) ∧
  (∀ s : State, exec .pendingCount s = .next { s with drainMode := .pcount, drainN := 0 }) ∧
  (∀ s : State, s.status.busy = true → s.drainMode ≠ .none → coreTurn s = .next (drainStep s)) ∧
  (∀ s : State, s.status.busy = true → rxHead s.rx = none →
    (s.drainMode = .drain → coreTurn s = .next (finishWith .ok s.drainN s)) ∧
    (s.drainMode = .pcount → coreTurn s = .next (finishWith .ok s.pend s)))

/-- R143: a drain step, case by case. With nothing ready it finishes. With a packet ready the packet is counted in RX_BYTES
and DRAIN_N and its descriptor re-armed; the rest is what the case adds. -/
def Obligations.DrainStepCases : Prop :=
  (∀ s : State, rxHead s.rx = none →
    (s.drainMode = .drain → drainStep s = finishWith .ok s.drainN s) ∧
    (s.drainMode = .pcount → drainStep s = finishWith .ok s.pend s)) ∧
  ∀ (s : State) (i : Nat), Memory.wf s.lmem → rxHead s.rx = some i →
    let base :=
      { s with
        rxBytes := s.rxBytes + (s.rx.at i).size.setWidth 32, rx := rxRearm s.rx s.ctrl.rxie, drainN := s.drainN + 1 }
    let b := s.rx.bytes i (s.rx.at i).size.toNat
    ((s.rx.at i).tr = true → drainStep s = { base with parseErrs := s.parseErrs + 1 }) ∧
    (∀ e : ParseFail, (s.rx.at i).tr = false → prs s.cfg s.ctrl.pcrc b = .error e →
      drainStep s = { base with parseErrs := s.parseErrs + 1 }) ∧
    (∀ r : Parsed, (s.rx.at i).tr = false → prs s.cfg s.ctrl.pcrc b = .ok r →
      let warned := { base with longWarns := if r.long then s.longWarns + 1 else s.longWarns }
      let j := r.tid.toNat
      (isCmd r.ib = true ∨ s.slotMatch j = false → drainStep s = { warned with unmatched := s.unmatched + 1 }) ∧
      (isCmd r.ib = false → s.slotMatch j = true →
        let released := { warned with slots := s.slots.set j ⟨false, false, 0⟩, pend := s.pend - 1 }
        (r.dlen = 0 ∨ (s.slot j).hd = false → drainStep s = released) ∧
        (r.dlen ≠ 0 → (s.slot j).hd = true →
          (rangeOK s.cfg (s.slot j).laddr.toNat r.dlen.toNat = false →
            drainStep s = { released with busErrs := s.busErrs + 1 }) ∧
          (rangeOK s.cfg (s.slot j).laddr.toNat r.dlen.toNat = true →
            drainStep s = { released with lmem := (drainStep s).lmem } ∧
            Memory.read (drainStep s).lmem (s.slot j).laddr.toNat r.dlen.toNat = r.payload ∧
            ∀ a, a < (s.slot j).laddr.toNat ∨ (s.slot j).laddr.toNat + r.dlen.toNat ≤ a →
              Memory.readByte (drainStep s).lmem a = Memory.readByte s.lmem a))))

/-- R142: a drain never waits. With no packet arriving meanwhile it finishes after at most as many CORE turns as there are
descriptors in the busy queue, and one more. -/
def Obligations.DrainTerminates : Prop :=
  ∀ s : State, Inv s → s.drainMode ≠ .none →
    ∃ n t, n ≤ s.rx.busy.length + 1 ∧ coreTurns n s = .next t ∧ t.status.busy = false ∧ t.status.code = .ok ∧
      rxHead t.rx = none

/-- R145: a drain step changes a byte of local memory only inside the recorded range of a slot in use that has a
destination, and a packet that matches no slot changes no slot, not PEND and no byte. -/
def Obligations.NoStaleWrite : Prop :=
  ∀ s : State, Memory.wf s.lmem →
    (∀ a, Memory.readByte (drainStep s).lmem a ≠ Memory.readByte s.lmem a →
      ∃ (i j : Nat) (r : Parsed), rxHead s.rx = some i ∧
        prs s.cfg s.ctrl.pcrc (s.rx.bytes i (s.rx.at i).size.toNat) = .ok r ∧ j = r.tid.toNat ∧ j < s.cfg.cSlots ∧
        (s.slot j).used = true ∧ (s.slot j).hd = true ∧
        rangeOK s.cfg (s.slot j).laddr.toNat r.dlen.toNat = true ∧
        (s.slot j).laddr.toNat ≤ a ∧ a < (s.slot j).laddr.toNat + r.dlen.toNat) ∧
    (∀ (i : Nat) (r : Parsed), rxHead s.rx = some i →
      prs s.cfg s.ctrl.pcrc (s.rx.bytes i (s.rx.at i).size.toNat) = .ok r → s.slotMatch r.tid.toNat = false →
      (drainStep s).slots = s.slots ∧ (drainStep s).pend = s.pend ∧ (drainStep s).lmem = s.lmem)

/-- R146, for TL_GRAB: after TL_RESET it gives OK exactly C_SLOTS times, with the results 0, 1, .., C_SLOTS - 1, and then
E_EXHAUSTED, and PEND then counts the slots. -/
def Obligations.SlotCapacity : Prop :=
  ∀ s s0 : State, Inv s → exec .tlReset s = .next s0 →
    ∀ ks : List Command, ks.length = s.cfg.cSlots → (∀ k ∈ ks, ∃ hd : Bool, k.instr = .tlGrab hd) →
    ∃ s1 : State,
      runCommands ks s0 = some ((List.range s.cfg.cSlots).map fun j => (Code.ok, wordOfNat j), s1) ∧
      s1.pend.toNat = s.cfg.cSlots ∧
      ∀ (k : Command) (hd : Bool), k.instr = .tlGrab hd →
        ∃ s2 : State, k.run s1 = .next s2 ∧ s2.status.code = .eExhausted ∧ s2.result = s1.result ∧
          s2.slots = s1.slots ∧ s2.pend = s1.pend

/-- R147: end to end. After TX_INIT and RX_INIT on an empty slot table, SUBMIT_READ of 4 bytes gives slot 0; a matching reply
is received in one LINK_RX step; PENDING_COUNT then gives 0 and the four bytes stand at the destination. The premises are
those under which SUBMIT_READ passes its checks. -/
def Obligations.EndToEndRead : Prop :=
  ∀ (s0 s1 s2 : State) (buf : Word) (p : List Byte) (r : Parsed),
    Inv s0 → s0.status.busy = false → (∀ e ∈ s0.slots, e.used = false) →
    exec .txInit s0 = .next s1 → exec .rxInit s1 = .next s2 →
    s0.link.pathLen.toNat + s0.link.rpathLen.toNat + 15 ≤ s0.cfg.txHdrBuf →
    16 + s0.cfg.replyRsvd.toNat ≤ s0.cfg.rxBuf → rangeOK s0.cfg buf.toNat 4 = true →
    p.length ≤ s0.cfg.rxBuf → prs s0.cfg s0.ctrl.pcrc p = .ok r → r.ib = 0x0C → r.tid = 0 → r.dlen = 4 →
    r.payload = [0xDE, 0xAD, 0xBE, 0xEF] →
    ∃ s3 s4 s5 : State,
      coreTurn (acceptCommand 0x46000000#32 { s2 with arg0 := 0x1000, arg1 := buf, arg2 := 4 }) = .next s3 ∧
      s3.status.code = .ok ∧ s3.result = 0 ∧ s3.pend = 1 ∧
      takeTurn .linkRx { s3 with rxWire := [p] } = .next s4 ∧
      coreTurns 3 (acceptCommand 0x48000000#32 s4) = .next s5 ∧
      s5.status.busy = false ∧ s5.status.code = .ok ∧ s5.result = 0 ∧
      Memory.read s5.lmem buf.toNat 4 = [0xDE, 0xAD, 0xBE, 0xEF]

/-! ### Order -/

/-- R128: transmit order. What has been sent stays sent; and what has been sent, followed by what is queued, only grows, by
one packet at its end with each TX_ENQUEUE or SUBMIT that finishes OK: so packets are sent in the order of their commands,
each exactly once, unless a TX_INIT (or reset) comes first. -/
def Obligations.TransmitOrder : Prop :=
  ∀ s t : State, Inv s → step s = .next t → (nextTurn s).1 ≠ .reset → ¬ s.runsNext .txInit →
    s.txOut <+: t.txOut ∧
    ((∃ i : Instr, s.runsNext i ∧ ((∃ hlen ncl : Byte, i = .txEnqueue hlen ncl) ∨ i = .submitWrite ∨ i = .submitRead) ∧
        t.status.code = .ok) →
      ∃ p : List Byte, t.txOut ++ t.queuedTx = s.txOut ++ s.queuedTx ++ [p]) ∧
    (¬ (∃ i : Instr, s.runsNext i ∧
          ((∃ hlen ncl : Byte, i = .txEnqueue hlen ncl) ∨ i = .submitWrite ∨ i = .submitRead) ∧ t.status.code = .ok) →
      t.txOut ++ t.queuedTx = s.txOut ++ s.queuedTx)

/-- R127: receive order. The packets received and not consumed, followed by those that wait on the link (cut to RX_BUF
bytes), lose their first at an RX_FETCH or RX_DROP that finishes OK and at a drain step with a packet ready, gain one at
their end where a packet arrives, and nothing else changes them: packets are seen in arrival order, each exactly once, and
none is lost, unless an RX_INIT (or reset) comes first. -/
def Obligations.ReceiveOrder : Prop :=
  ∀ s t : State, Inv s → step s = .next t → (nextTurn s).1 ≠ .reset → ¬ s.runsNext .rxInit →
    let before := s.readyRx ++ s.rxWire.map (·.take s.cfg.rxBuf)
    let after := t.readyRx ++ t.rxWire.map (·.take s.cfg.rxBuf)
    ((s.runsNext .rxFetch ∨ s.runsNext .rxDrop) ∧ t.status.code = .ok ∨
        s.drainsNext ∧ (rxHead s.rx).isSome = true →
      ∃ p : List Byte, before = p :: after ∧ ∃ i, rxHead s.rx = some i ∧ p = s.rx.bytes i (s.rx.at i).size.toNat) ∧
    (¬ ((s.runsNext .rxFetch ∨ s.runsNext .rxDrop) ∧ t.status.code = .ok ∨
        s.drainsNext ∧ (rxHead s.rx).isSome = true) →
      after = before ++ s.arrivesNext.map (·.take s.cfg.rxBuf))

/-! ### Reset and the invariant -/

/-- R163 and R164: the reset event, taken whatever is under way, sets every element of RMAP-CORE's state to its reset value
and leaves local memory, TXOUT and the packets on the link; the TX ring is then as TX_INIT leaves it. That what the host
has read and the turns to come stay is the model's choice (log entries 3 and 7). -/
def Obligations.ResetEvent : Prop :=
  ∀ s : State, ∃ t : State, takeTurn .reset s = .next t ∧
    t.cfg = s.cfg ∧ t.lmem = s.lmem ∧ t.txOut = s.txOut ∧ t.rxWire = s.rxWire ∧
    t.hostRegs = s.hostRegs ∧ t.hostMem = s.hostMem ∧ t.sched = s.sched ∧ t.again = s.again ∧
    t.lcmd = 0 ∧ t.larg0 = 0 ∧ t.larg1 = 0 ∧ t.larg2 = 0 ∧ t.arg0 = 0 ∧ t.arg1 = 0 ∧ t.arg2 = 0 ∧
    t.status = ⟨.ok, false, false, false⟩ ∧ t.result = 0 ∧ t.ctrl = ⟨false, false, false⟩ ∧ t.irq = ⟨false, false⟩ ∧
    t.irqLine = false ∧ t.txBytes = 0 ∧ t.rxBytes = 0 ∧ t.parseErrs = 0 ∧ t.unmatched = 0 ∧ t.longWarns = 0 ∧
    t.busErrs = 0 ∧ t.drainMode = .none ∧ t.drainN = 0 ∧
    t.pkt = ⟨0, 0, 0, 0, 0, 0, 0, List.replicate s.cfg.maxPathLen 0, 0, List.replicate 12 0, 0, 0, 0⟩ ∧
    t.link = ⟨0, 0, 0, List.replicate s.cfg.maxPathLen 0, 0, List.replicate 12 0, 0⟩ ∧
    t.tx.desc.length = s.cfg.nTx ∧
    (∀ i, i < s.cfg.nTx → t.tx.at i = ⟨false, i + 1 == s.cfg.nTx, false, false, false, 0, 0, 0⟩) ∧
    t.rx.desc.length = s.cfg.nRx ∧
    (∀ i, i < s.cfg.nRx → t.rx.at i = ⟨false, i + 1 == s.cfg.nRx, false, false, 0⟩) ∧
    t.tx.free = List.range s.cfg.nTx ∧ t.tx.busy = [] ∧ t.tx.lptr = 0 ∧
    t.rx.free = List.range s.cfg.nRx ∧ t.rx.busy = [] ∧ t.rx.lptr = 0 ∧
    t.slots = List.replicate s.cfg.cSlots ⟨false, false, 0⟩ ∧ t.pend = 0 ∧
    exec .txInit t = .next (finish .ok t)

/-- The machine right after reset meets the invariant, under every configuration that R7, R8 and R48 admit. That the
model's `State.reset` is the machine of CFG-T is the model's choice (log entry 1). -/
def Obligations.ResetMeetsInvariant : Prop :=
  (∀ c : Config, c.wf = true → Inv (State.resetWith c)) ∧ State.reset = State.resetWith Config.cfgT ∧
    Config.cfgT.wf = true

/-- Every step keeps the configuration, and the canonical form of local memory, in which only bytes that exist are listed
(R44). -/
def Obligations.MemoryInvariantKept : Prop :=
  ∀ s t : State, Inv s → step s = .next t → t.cfg = s.cfg ∧ MemoryOk t

/-- Every step keeps R32 and R34, the bounds on the paths of PKT and L, and bit 7 of PKT.INSTR 0: that clause of the
invariant is DEDUCED (log entry 6) from R70, R77, R88 and R100. -/
def Obligations.PacketInvariantKept : Prop :=
  ∀ s t : State, Inv s → step s = .next t → PktOk t ∧ LinkOk t

/-- Every step keeps R38 and R40 on the TX ring: BUSY ++ FREE stays a rotation of the indices, the drained descriptors
stand first, and the link's pointer is where R40 says (where R40 says nothing, at the head of the busy queue: the
model's completion, log entry 6). -/
def Obligations.TxRingInvariantKept : Prop :=
  ∀ s t : State, Inv s → step s = .next t → TxRingOk t

/-- Every step keeps R38, R40 and R117 on the RX ring (with log entry 6, as for the TX ring). -/
def Obligations.RxRingInvariantKept : Prop :=
  ∀ s t : State, Inv s → step s = .next t → RxRingOk t

/-- R42: PEND equals the number of slots in use after every step, idle slots hold no address, and a drain runs only while
the command port is busy. -/
def Obligations.SlotInvariantKept : Prop :=
  ∀ s t : State, Inv s → step s = .next t →
    SlotsOk t ∧ t.pend.toNat = t.slots.countP (fun e => e.used) ∧ LatchOk t

/-! ### A drain that does not end -/

/-- R176: a drain runs on while packets keep arriving. Where RX_INIT has run and, over and over, a packet arrives, LINK_RX
takes its turn and then CORE, a drain under way never ends: after any number of steps it is still under way and the command
port busy, and every third step has consumed one packet more. The turns repeat by the model's `again` (log entry 3); packets
as long as R109 admits are the premise's. -/
def Obligations.DrainMayRunOn : Prop :=
  ∀ (s : State) (p : List Byte), Inv s → s.drainMode ≠ .none → s.rx.busy ≠ [] →
    (∀ q ∈ p :: s.rxWire, q.length < 2 ^ 24) → s.sched = [] → s.again = [.arrive p, .linkRx, .core] →
    ∀ n : Nat,
      (∃ t : State, steps n s = .next t ∧ t.status = s.status ∧ t.status.busy = true ∧ t.drainMode = s.drainMode) ∧
      ∃ t : State, steps (3 * n) s = .next t ∧ t.drainN = s.drainN + BitVec.ofNat 32 n

end RmapCoreStatements
end

