-- ==== Sys2Proof/Laws/Agents.lean ====
section
/-! SUPPORT. One lemma per agent's step, saying what an access to the register window reaches (spec/10_state.md R18,
R19), and how an accepted word runs (R28, spec/30_encoding.md R65). -/

namespace Sys2Proof.Machine

/-- A 32-bit aligned access inside the window reaches the register at its offset. -/
theorem windowReg_aligned (c : Config) {off : Nat} (h : off < 256) (h4 : off % 4 = 0) :
    windowReg c (c.mmioBase + off) .w32 = .ok (regAt off) := by
  have : ¬ 256 ≤ off := by omega
  simp [windowReg, h4, this]

/-- Any other access inside the window is refused (R19). -/
theorem windowReg_misformed (c : Config) {off : Nat} {width : AccessWidth} (h : off < 256)
    (hw : off % 4 ≠ 0 ∨ width ≠ .w32) : windowReg c (c.mmioBase + off) width = .error .hostAccessForm := by
  have : ¬ 256 ≤ off := by omega
  rcases hw with hw | hw <;> simp [windowReg, hw, this]

/-- Past the named registers the window is reserved (R18). -/
theorem regAt_reserved {off : Nat} (h : 0x4C ≤ off) : regAt off = .reserved := by
  unfold regAt
  split <;> first | omega | rfl

/-- A host read of the window. -/
theorem hostStep_readReg (s : State) {off : Nat} (h : off < 256) (h4 : off % 4 = 0) :
    hostStep (.readReg (s.cfg.mmioBase + off) .w32) s =
      .next { s with hostRegs := s.hostRegs ++ [regRead s (regAt off)] } := by
  simp only [hostStep, windowReg_aligned s.cfg h h4]

/-- A host write to the window. -/
theorem hostStep_writeReg (s : State) {off : Nat} (v : Word) (h : off < 256) (h4 : off % 4 = 0) :
    hostStep (.writeReg (s.cfg.mmioBase + off) .w32 v) s = .next (regWrite s v (regAt off)) := by
  simp only [hostStep, windowReg_aligned s.cfg h h4]

/-- A host write to the window changes at most the registers of R18 and the command latch. -/
theorem regWrite_frame (s : State) (v : Word) (r : Reg) :
    regWrite s v r =
      { s with
        status := (regWrite s v r).status, arg0 := (regWrite s v r).arg0, arg1 := (regWrite s v r).arg1
        arg2 := (regWrite s v r).arg2, ctrl := (regWrite s v r).ctrl, irq := (regWrite s v r).irq
        txBytes := (regWrite s v r).txBytes, rxBytes := (regWrite s v r).rxBytes
        parseErrs := (regWrite s v r).parseErrs, unmatched := (regWrite s v r).unmatched
        longWarns := (regWrite s v r).longWarns, busErrs := (regWrite s v r).busErrs, lcmd := (regWrite s v r).lcmd
        larg0 := (regWrite s v r).larg0, larg1 := (regWrite s v r).larg1, larg2 := (regWrite s v r).larg2 } := by
  cases r <;> first | rfl | (simp only [regWrite, acceptCommand]; split <;> rfl)

/-- A turn of CORE with nothing accepted. -/
theorem coreTurn_idle {s : State} (h : s.status.busy = false) : coreTurn s = .next s := by
  simp [coreTurn, h]

/-- A turn of CORE with a command accepted. -/
theorem coreTurn_command {s : State} {i : Instr} (hb : s.status.busy = true) (hd : s.drainMode = .none)
    (h : decode s.lcmd = .ok i) : coreTurn s = exec i s := by
  simp [coreTurn, hb, hd, h]

/-- A turn of CORE with a word accepted that is no command. -/
theorem coreTurn_reject {s : State} {e : Reject} (hb : s.status.busy = true) (hd : s.drainMode = .none)
    (h : decode s.lcmd = .error e) : coreTurn s = .next (finish .eBadop s) := by
  simp [coreTurn, hb, hd, h]

/-- A turn of CORE during a drain. -/
theorem coreTurn_drain {s : State} (hb : s.status.busy = true) (hd : s.drainMode ≠ .none) :
    coreTurn s = .next (drainStep s) := by
  cases hm : s.drainMode with
  | none => exact absurd hm hd
  | drain => simp [coreTurn, hb, hm]
  | pcount => simp [coreTurn, hb, hm]

/-- A word that decodes runs as what it decodes to. -/
theorem RunsAs.of_decode {w : Word} {i : Instr} (h : decode w = .ok i) : RunsAs w i :=
  fun _ hb hd hl => coreTurn_command hb hd (hl ▸ h)

/-- A size of 24 bits as a register value. -/
theorem wordOfNat_toNat (x : BitVec 24) : wordOfNat x.toNat = x.setWidth 32 := by
  apply BitVec.eq_of_toNat_eq
  simp [wordOfNat]

end Sys2Proof.Machine
end

