-- ==== Sys2Proof/Laws/Decode.lean ====
section
/-! SUPPORT. The fields of a command word, read from the way the word is put together (spec/30_encoding.md R62,
R63). -/

namespace Sys2Proof

/-- A word's opcode is what it was built with. -/
@[simp] theorem opcodeOf_commandWord (op : Byte) (imm : BitVec 24) : opcodeOf (commandWord op imm) = op := by
  apply BitVec.eq_of_getLsbD_eq
  intro i hi
  simp only [opcodeOf, commandWord, BitVec.getLsbD_extractLsb', BitVec.getLsbD_append]
  have : ¬ 24 + i < 24 := by omega
  simp [hi]

/-- A field of a word that lies in the immediate is that field of the immediate. -/
theorem field_commandWord (op : Byte) (imm : BitVec 24) (lo n : Nat) (h : lo + n ≤ 24) :
    field (commandWord op imm) lo n = imm.extractLsb' lo n := by
  apply BitVec.eq_of_getLsbD_eq
  intro i hi
  have : lo + i < 24 := by omega
  simp only [field, commandWord, BitVec.getLsbD_extractLsb', BitVec.getLsbD_append, hi, this, decide_true,
    Bool.true_and, if_true]

/-- A single bit of a word that lies in the immediate. -/
theorem flagOf_commandWord (op : Byte) (imm : BitVec 24) (i : Nat) (h : i < 24) :
    flagOf (commandWord op imm) i = imm.getLsbD i := by
  simp only [flagOf, commandWord, BitVec.getLsbD_append, h, if_true]

/-- A word is its opcode and its immediate. -/
theorem commandWord_split (w : Word) : commandWord (opcodeOf w) (field w 0 24) = w := by
  apply BitVec.eq_of_getLsbD_eq
  intro i hi
  simp only [commandWord, opcodeOf, field, BitVec.getLsbD_append, BitVec.getLsbD_extractLsb']
  by_cases h : i < 24
  · simp [h]
  · have : i - 24 < 8 := by omega
    have : 24 + (i - 24) = i := by omega
    simp [*]

/-- The bits of a placed field. -/
theorem getLsbD_place {n : Nat} (v : BitVec n) (lo i : Nat) :
    (place v lo).getLsbD i = (decide (i < 24) && decide (lo ≤ i) && v.getLsbD (i - lo)) := by
  simp only [place, BitVec.getLsbD_shiftLeft, BitVec.getLsbD_setWidth]
  by_cases h : i < 24 <;> by_cases h' : i < lo
  · simp [h, h']
  · have h'' : lo ≤ i := by omega
    have : i - lo < 24 := by omega
    simp [h, h', h'', this]
  · simp [h]
  · simp [h]

/-- The bits of a placed flag. -/
theorem getLsbD_placeBit (b : Bool) (k i : Nat) :
    (placeBit b k).getLsbD i = (decide (i < 24) && decide (i = k) && b) := by
  rw [placeBit, getLsbD_place]
  by_cases h : i < 24 <;> by_cases h' : i = k
  · simp [h']
  · by_cases h'' : k ≤ i
    · have : i - k ≠ 0 := by omega
      simp [h, h', h'', this]
    · simp [h', h'']
  · simp [h]
  · simp [h]

/-- R65 read on a word put together from its opcode and immediate. -/
theorem wellFormedWord_commandWord (op : Byte) (imm : BitVec 24) :
    wellFormedWord (commandWord op imm) =
      match opcodeMap.lookup op.toNat with
      | none => false
      | some f => commandWord op imm &&& f.reserved == 0 := by
  have : (commandWord op imm).toNat / 2 ^ 24 = op.toNat := by
    have := imm.isLt
    rw [commandWord, BitVec.toNat_append, Nat.shiftLeft_eq, Nat.mul_comm, ← Nat.two_pow_add_eq_or_of_lt this]
    omega
  exact congrArg (fun n => match opcodeMap.lookup n with
    | none => false
    | some f => commandWord op imm &&& f.reserved == 0) this

@[simp] theorem ringOfBit_bit (r : Ring) : ringOfBit r.bit = r := by cases r <;> rfl

@[simp] theorem bit_ringOfBit (b : Bool) : (ringOfBit b).bit = b := by cases b <;> rfl

end Sys2Proof
end

