-- ==== Sys2Proof/Laws/Memory.lean ====
section
/-! SUPPORT. Local memory: a read after a write, the canonical form, which addresses a write can list, and RangeOK in
words (spec/20_memory.md R44 to R48). -/

namespace Sys2Proof.Machine

/-! ### The canonical form -/

theorem Memory.wf_nil : Memory.wf [] := by simp [Memory.wf]

theorem Memory.wf_tail {c : Host.Cell} {m : List Host.Cell} (h : Memory.wf (c :: m)) : Memory.wf m :=
  ⟨h.1.of_cons, fun x hx => h.2 x (List.mem_cons_of_mem _ hx)⟩

theorem Memory.wf_head_lt {c x : Host.Cell} {m : List Host.Cell} (h : Memory.wf (c :: m)) (hx : x ∈ m) :
    c.1 < x.1 :=
  (List.pairwise_cons.mp h.1).1 x hx

theorem Memory.readByte_of_not_listed {m : List Host.Cell} {a : Nat} (h : ∀ x ∈ m, x.1 ≠ a) :
    Memory.readByte m a = Memory.unlisted := by
  induction m with
  | nil => rfl
  | cons c m ih =>
    obtain ⟨k, v⟩ := c
    have hk : k ≠ a := h (k, v) (by simp)
    simp only [Memory.readByte, if_neg hk]
    exact ih fun x hx => h x (by simp [hx])

theorem Memory.readByte_of_listed {m : List Host.Cell} (hm : Memory.wf m) {a : Nat} {v : Byte} (h : (a, v) ∈ m) :
    Memory.readByte m a = v := by
  induction m with
  | nil => simp at h
  | cons c m ih =>
    obtain ⟨k, x⟩ := c
    rcases List.mem_cons.mp h with h | h
    · cases h; simp [Memory.readByte]
    · have : k ≠ a := Nat.ne_of_lt (Memory.wf_head_lt hm h)
      simpa [Memory.readByte, this] using ih (Memory.wf_tail hm) h

/-- A write lists no address but its own and those listed before. -/
theorem Memory.mem_writeByte {m : List Host.Cell} {a : Nat} {v : Byte} {x : Host.Cell}
    (h : x ∈ Memory.writeByte m a v) : x ∈ m ∨ (x = (a, v) ∧ v ≠ Memory.unlisted) := by
  induction m with
  | nil =>
    unfold Memory.writeByte at h
    split at h <;> simp_all
  | cons c m ih =>
    obtain ⟨k, y⟩ := c
    unfold Memory.writeByte at h
    split at h
    · split at h <;> simp_all
      tauto
    · split at h
      · split at h <;> simp_all
        tauto
      · simp only [List.mem_cons] at h ⊢
        rcases h with h | h
        · exact .inl (.inl h)
        · rcases ih h with h | h
          · exact .inl (.inr h)
          · exact .inr h

theorem Memory.writeByte_wf {m : List Host.Cell} (hm : Memory.wf m) (a : Nat) (v : Byte) :
    Memory.wf (Memory.writeByte m a v) := by
  refine ⟨?_, fun x hx => ?_⟩
  · induction m with
    | nil => unfold Memory.writeByte; split <;> simp
    | cons c m ih =>
      obtain ⟨k, y⟩ := c
      have hlt := fun x hx => Memory.wf_head_lt hm (x := x) hx
      unfold Memory.writeByte
      split
      · rename_i hak
        split
        · exact hm.1
        · refine List.pairwise_cons.mpr ⟨fun x hx => ?_, hm.1⟩
          rcases List.mem_cons.mp hx with hx | hx
          · simpa [hx] using hak
          · exact Nat.lt_trans hak (hlt x hx)
      · rename_i hak
        split
        · rename_i hak'
          split
          · exact hm.1.of_cons
          · exact List.pairwise_cons.mpr ⟨fun x hx => by simpa [hak'] using hlt x hx, hm.1.of_cons⟩
        · rename_i hne
          refine List.pairwise_cons.mpr ⟨fun x hx => ?_, ih (Memory.wf_tail hm)⟩
          rcases Memory.mem_writeByte hx with hx | ⟨hx, -⟩
          · exact hlt x hx
          · simp only [hx]; omega
  · rcases Memory.mem_writeByte hx with hx | ⟨hx, hv⟩
    · exact hm.2 x hx
    · simpa [hx] using hv

theorem Memory.write_wf {m : List Host.Cell} (hm : Memory.wf m) (a : Nat) (s : List Byte) :
    Memory.wf (Memory.write m a s) := by
  induction s generalizing m a with
  | nil => exact hm
  | cons b s ih => exact ih (Memory.writeByte_wf hm a b) (a + 1)

/-- A write of a range lists no address but those of the range and those listed before. -/
theorem Memory.mem_write {m : List Host.Cell} {a : Nat} {s : List Byte} {x : Host.Cell}
    (h : x ∈ Memory.write m a s) : x ∈ m ∨ (a ≤ x.1 ∧ x.1 < a + s.length) := by
  induction s generalizing m a with
  | nil => exact .inl h
  | cons b s ih =>
    rcases ih h with h | h
    · rcases Memory.mem_writeByte h with h | ⟨h, -⟩
      · exact .inl h
      · exact .inr (by simp [h])
    · exact .inr (by simp only [List.length_cons]; omega)

/-! ### Reads after writes -/

theorem Memory.readByte_writeByte {m : List Host.Cell} (hm : Memory.wf m) (a b : Nat) (v : Byte) :
    Memory.readByte (Memory.writeByte m a v) b = if b = a then v else Memory.readByte m b := by
  induction m with
  | nil =>
    unfold Memory.writeByte
    split <;> by_cases h : b = a <;> simp_all [Memory.readByte, eq_comm]
  | cons c m ih =>
    obtain ⟨k, y⟩ := c
    have hlt := fun x hx => Memory.wf_head_lt hm (x := x) hx
    unfold Memory.writeByte
    split
    · rename_i hak
      split
      · rename_i hv
        by_cases h : b = a
        · subst h
          rw [if_pos rfl, hv]
          refine Memory.readByte_of_not_listed fun x hx => ?_
          rcases List.mem_cons.mp hx with hx | hx
          · simp only [hx]; omega
          · have := hlt x hx; simp only at this; omega
        · simp [h]
      · by_cases h : b = a
        · simp [Memory.readByte, h]
        · simp [Memory.readByte, h, Ne.symm h]
    · split
      · rename_i hak
        subst hak
        split
        · rename_i hv
          by_cases h : b = a
          · subst h
            rw [if_pos rfl, hv]
            exact Memory.readByte_of_not_listed fun x hx => (Nat.ne_of_lt (hlt x hx)).symm
          · simp [Memory.readByte, h, Ne.symm h]
        · by_cases h : b = a
          · simp [Memory.readByte, h]
          · simp [Memory.readByte, h, Ne.symm h]
      · rename_i hne
        simp only [Memory.readByte, ih (Memory.wf_tail hm)]
        by_cases h : b = a
        · subst h
          simp [Ne.symm hne]
        · simp [h]

/-- What a byte reads as after a range has been written (R46): the range's bytes, and every other byte as before. -/
theorem Memory.readByte_write {m : List Host.Cell} (hm : Memory.wf m) (a b : Nat) (s : List Byte) :
    Memory.readByte (Memory.write m a s) b =
      if a ≤ b ∧ b < a + s.length then byteAt s (b - a) else Memory.readByte m b := by
  induction s generalizing m a with
  | nil => simp only [Memory.write, List.length_nil]; rw [if_neg (by omega)]
  | cons v s ih =>
    rw [Memory.write, ih (Memory.writeByte_wf hm a v), Memory.readByte_writeByte hm]
    by_cases h : b = a
    · subst h
      simp [byteAt]
    · by_cases h' : a + 1 ≤ b ∧ b < a + 1 + s.length
      · have : b - a = (b - (a + 1)) + 1 := by omega
        rw [if_pos h', if_pos (by simp only [List.length_cons]; omega), this]
        simp [byteAt]
      · rw [if_neg h', if_neg h, if_neg (by simp only [List.length_cons]; omega)]

@[simp] theorem Memory.read_length (m : List Host.Cell) (a n : Nat) : (Memory.read m a n).length = n := by
  simp [Memory.read]

theorem Memory.byteAt_read (m : List Host.Cell) (a n k : Nat) (h : k < n) :
    byteAt (Memory.read m a n) k = Memory.readByte m (a + k) := by
  simp [byteAt, Memory.read, List.getD_eq_getElem?_getD, h]

/-- Equal contents are equal lists: the form is canonical. -/
theorem Memory.eq_of_readByte_eq {m m' : List Host.Cell} (hm : Memory.wf m) (hm' : Memory.wf m')
    (h : ∀ a, Memory.readByte m a = Memory.readByte m' a) : m = m' := by
  induction m generalizing m' with
  | nil =>
    cases m' with
    | nil => rfl
    | cons c m' =>
      have := h c.1
      rw [Memory.readByte_of_listed hm' (List.mem_cons_self ..)] at this
      exact absurd this.symm (hm'.2 c (List.mem_cons_self ..))
  | cons c m ih =>
    cases m' with
    | nil =>
      have := h c.1
      rw [Memory.readByte_of_listed hm (List.mem_cons_self ..)] at this
      exact absurd this (hm.2 c (List.mem_cons_self ..))
    | cons c' m' =>
      have listed : ∀ {l : List Host.Cell} {a : Nat}, Memory.wf l → Memory.readByte l a ≠ Memory.unlisted →
          ∃ x ∈ l, x.1 = a := by
        intro l a _ hne
        by_contra hcon
        exact hne (Memory.readByte_of_not_listed fun x hx hxa => hcon ⟨x, hx, hxa⟩)
      have rc := Memory.readByte_of_listed hm (a := c.1) (v := c.2) (List.mem_cons_self ..)
      have rc' := Memory.readByte_of_listed hm' (a := c'.1) (v := c'.2) (List.mem_cons_self ..)
      have hc : c.1 = c'.1 := by
        obtain ⟨x, hx, hxa⟩ := listed hm' (a := c.1)
          (by rw [← h, rc]; exact hm.2 c (List.mem_cons_self ..))
        obtain ⟨y, hy, hya⟩ := listed hm (a := c'.1)
          (by rw [h, rc']; exact hm'.2 c' (List.mem_cons_self ..))
        have h1 : c'.1 ≤ c.1 := by
          rcases List.mem_cons.mp hx with hx | hx
          · simp [← hxa, hx]
          · rw [← hxa]; exact Nat.le_of_lt (Memory.wf_head_lt hm' hx)
        have h2 : c.1 ≤ c'.1 := by
          rcases List.mem_cons.mp hy with hy | hy
          · simp [← hya, hy]
          · rw [← hya]; exact Nat.le_of_lt (Memory.wf_head_lt hm hy)
        omega
      have hv : c.2 = c'.2 := by rw [← rc, ← rc', hc, h]
      have hcc : c = c' := Prod.ext hc hv
      subst hcc
      congr 1
      refine ih (Memory.wf_tail hm) (Memory.wf_tail hm') fun a => ?_
      by_cases ha : a = c.1
      · subst ha
        rw [Memory.readByte_of_not_listed fun x hx => (Nat.ne_of_lt (Memory.wf_head_lt hm hx)).symm,
          Memory.readByte_of_not_listed fun x hx => (Nat.ne_of_lt (Memory.wf_head_lt hm' hx)).symm]
      · simpa [Memory.readByte, Ne.symm ha] using h a

/-! ### RangeOK -/

theorem rangeOK_iff (c : Config) (a n : Nat) :
    rangeOK c a n = true ↔ n = 0 ∨ (a + n ≤ 2 ^ 32 ∧ ∀ x, a ≤ x → x < a + n → isMapped c x = true) := by
  simp only [rangeOK, Bool.or_eq_true, beq_iff_eq, Bool.and_eq_true, decide_eq_true_eq, List.all_eq_true,
    List.mem_range]
  refine or_congr Iff.rfl (and_congr Iff.rfl ⟨fun h x hx hx' => ?_, fun h k hk => h _ (by omega) (by omega)⟩)
  have := h (x - a) (by omega)
  rwa [Nat.add_sub_cancel' hx] at this

@[simp] theorem rangeOK_zero (c : Config) (a : Nat) : rangeOK c a 0 = true := by simp [rangeOK]

theorem isMapped_iff (c : Config) (a : Nat) :
    isMapped c a = true ↔ ∃ r ∈ c.mapped, r.base ≤ a ∧ a < r.base + r.size := by
  simp [isMapped, List.any_eq_true]

/-- Every predicate on the addresses below a bound, 2^32 in particular, is a list of regions (R7: "any predicate"). -/
theorem isMapped_of_predicate (c : Config) (p : Nat → Bool) (bound a : Nat) (ha : a < bound) :
    isMapped { c with mapped := ((List.range bound).filter p).map fun x => ⟨x, 1⟩ } a = p a := by
  rw [Bool.eq_iff_iff, isMapped_iff]
  constructor
  · rintro ⟨r, hr, h1, h2⟩
    obtain ⟨x, hx, rfl⟩ := List.mem_map.mp hr
    have hxa : x = a := by simp only at h1 h2; omega
    subst hxa
    exact (List.mem_filter.mp hx).2
  · intro h
    exact ⟨⟨a, 1⟩, List.mem_map.mpr ⟨a, List.mem_filter.mpr ⟨List.mem_range.mpr ha, h⟩, rfl⟩, by simp, by simp⟩

/-- R48: under a configuration the checks admit, no byte of the register window exists. -/
theorem window_not_mapped (c : Config) (h : c.windowOk = true) (a : Nat) (h1 : c.mmioBase ≤ a)
    (h2 : a < c.mmioBase + 256) : isMapped c a = false := by
  by_contra hcon
  obtain ⟨r, hr, h3, h4⟩ := (isMapped_iff c a).mp (by simpa using hcon)
  have := List.all_eq_true.mp h r hr
  simp only [Bool.or_eq_true, decide_eq_true_eq] at this
  omega

end Sys2Proof.Machine
end

