-- ==== Sys2Proof/Laws/PerInstr.lean ====
section
/-! SUPPORT. Made per instruction: the word of every command is well formed in the sense of spec/30_encoding.md R65, its
opcode in the map of R64 and its reserved bits (R63) 0. -/

namespace Sys2Proof.Laws.EncodesWellFormed

/-- The word of `i` is one command of the table. -/
def Statement (i : Instr) : Prop := wellFormedWord (encode i) = true

/-- A word is well formed if its opcode has format `f` and no bit of its immediate meets `f`'s reserved mask. -/
theorem of_bits {op : Byte} {imm : BitVec 24} {f : Format} (hop : opcodeMap.lookup op.toNat = some f)
    (h : ∀ i, i < 24 → f.reserved.getLsbD i = true → imm.getLsbD i = false)
    (hf : ∀ i, 24 ≤ i → f.reserved.getLsbD i = false) : wellFormedWord (commandWord op imm) = true := by
  rw [wellFormedWord_commandWord, hop]
  simp only [beq_iff_eq]
  refine BitVec.eq_of_getLsbD_eq fun i hi => ?_
  simp only [BitVec.getLsbD_and, commandWord, BitVec.getLsbD_append]
  by_cases hlt : i < 24
  · rw [if_pos hlt]
    cases hr : f.reserved.getLsbD i with
    | false => simp
    | true => simp [h i hlt hr]
  · simp [hf i (by omega)]

theorem reserved_high (f : Format) (i : Nat) (h : 24 ≤ i) : f.reserved.getLsbD i = false := by
  by_cases hi : i < 32
  · cases f <;> interval_cases i <;> decide
  · exact BitVec.getLsbD_of_ge _ _ (by omega)

theorem crc8 : Statement .crc8 := by unfold Statement; decide

theorem pktClear : Statement .pktClear := by unfold Statement; decide

theorem pktSetDst (b : Byte) : Statement (.pktSetDst b) := by
  refine of_bits rfl (fun i hi hr => ?_) (reserved_high _)
  interval_cases i <;> simp_all [-BitVec.getLsbD_eq_getElem, Format.reserved, getLsbD_place]

theorem pktSetSrc (b : Byte) : Statement (.pktSetSrc b) := by
  refine of_bits rfl (fun i hi hr => ?_) (reserved_high _)
  interval_cases i <;> simp_all [-BitVec.getLsbD_eq_getElem, Format.reserved, getLsbD_place]

theorem pktSetKey (b : Byte) : Statement (.pktSetKey b) := by
  refine of_bits rfl (fun i hi hr => ?_) (reserved_high _)
  interval_cases i <;> simp_all [-BitVec.getLsbD_eq_getElem, Format.reserved, getLsbD_place]

theorem pktSetCmd (code : BitVec 4) : Statement (.pktSetCmd code) := by
  refine of_bits rfl (fun i hi hr => ?_) (reserved_high _)
  interval_cases i <;> simp_all [-BitVec.getLsbD_eq_getElem, Format.reserved, getLsbD_place]

theorem pktSetReply : Statement .pktSetReply := by unfold Statement; decide

theorem pktSetTid (h : BitVec 16) : Statement (.pktSetTid h) := by
  refine of_bits rfl (fun i hi hr => ?_) (reserved_high _)
  interval_cases i <;> simp_all [-BitVec.getLsbD_eq_getElem, Format.reserved, getLsbD_place]

theorem pktSetAddr : Statement .pktSetAddr := by unfold Statement; decide

theorem pktSetDlen : Statement .pktSetDlen := by unfold Statement; decide

theorem pktSetPath (b : Byte) : Statement (.pktSetPath b) := by
  refine of_bits rfl (fun i hi hr => ?_) (reserved_high _)
  interval_cases i <;> simp_all [-BitVec.getLsbD_eq_getElem, Format.reserved, getLsbD_place]

theorem pktSetRpath (b : Byte) : Statement (.pktSetRpath b) := by
  refine of_bits rfl (fun i hi hr => ?_) (reserved_high _)
  interval_cases i <;> simp_all [-BitVec.getLsbD_eq_getElem, Format.reserved, getLsbD_place]

theorem pktGet (sel : BitVec 4) (idx : Byte) : Statement (.pktGet sel idx) := by
  refine of_bits rfl (fun i hi hr => ?_) (reserved_high _)
  interval_cases i <;> simp_all [-BitVec.getLsbD_eq_getElem, Format.reserved, getLsbD_place]

theorem hdrSize : Statement .hdrSize := by unfold Statement; decide

theorem serialize : Statement .serialize := by unfold Statement; decide

theorem parse : Statement .parse := by unfold Statement; decide

theorem txInit : Statement .txInit := by unfold Statement; decide

theorem rxInit : Statement .rxInit := by unfold Statement; decide

theorem txEnqueue (hlen : Byte) (ncl : Byte) : Statement (.txEnqueue hlen ncl) := by
  refine of_bits rfl (fun i hi hr => ?_) (reserved_high _)
  interval_cases i <;> simp_all [-BitVec.getLsbD_eq_getElem, Format.reserved, getLsbD_place]

theorem rxPoll : Statement .rxPoll := by unfold Statement; decide

theorem rxFetch : Statement .rxFetch := by unfold Statement; decide

theorem rxDrop : Statement .rxDrop := by unfold Statement; decide

theorem descRead (idx : BitVec 16) (ring : Ring) (word : Bool) : Statement (.descRead idx ring word) := by
  refine of_bits rfl (fun i hi hr => ?_) (reserved_high _)
  interval_cases i <;> simp_all [-BitVec.getLsbD_eq_getElem, Format.reserved, getLsbD_place, getLsbD_placeBit]

theorem ringStat (ring : Ring) (sel : Bool) : Statement (.ringStat ring sel) := by
  refine of_bits rfl (fun i hi hr => ?_) (reserved_high _)
  interval_cases i <;> simp_all [-BitVec.getLsbD_eq_getElem, Format.reserved, getLsbD_placeBit]

theorem tlGrab (hd : Bool) : Statement (.tlGrab hd) := by
  refine of_bits rfl (fun i hi hr => ?_) (reserved_high _)
  interval_cases i <;> simp_all [-BitVec.getLsbD_eq_getElem, Format.reserved, getLsbD_placeBit]

theorem tlRelease (id : BitVec 16) : Statement (.tlRelease id) := by
  refine of_bits rfl (fun i hi hr => ?_) (reserved_high _)
  interval_cases i <;> simp_all [-BitVec.getLsbD_eq_getElem, Format.reserved, getLsbD_place]

theorem tlQuery (id : BitVec 16) (word : Bool) : Statement (.tlQuery id word) := by
  refine of_bits rfl (fun i hi hr => ?_) (reserved_high _)
  interval_cases i <;> simp_all [-BitVec.getLsbD_eq_getElem, Format.reserved, getLsbD_place, getLsbD_placeBit]

theorem tlReset : Statement .tlReset := by unfold Statement; decide

theorem linkLoad : Statement .linkLoad := by unfold Statement; decide

theorem submitWrite : Statement .submitWrite := by unfold Statement; decide

theorem submitRead : Statement .submitRead := by unfold Statement; decide

theorem drain : Statement .drain := by unfold Statement; decide

theorem pendingCount : Statement .pendingCount := by unfold Statement; decide

end Sys2Proof.Laws.EncodesWellFormed
end

