-- ==== Sys2Proof/Laws/State.lean ====
section
/-! SUPPORT. One lemma per field per update of the state, true by rfl, so that no later proof unfolds a record
update. -/

namespace Sys2Proof.Machine

/-! ### `finish` -/

@[simp] theorem finish_cfg (c : Code) (s : State) : (finish c s).cfg = s.cfg := rfl
@[simp] theorem finish_status (c : Code) (s : State) : (finish c s).status = { s.status with code := c, busy := false } := rfl
@[simp] theorem finish_result (c : Code) (s : State) : (finish c s).result = s.result := rfl
@[simp] theorem finish_arg0 (c : Code) (s : State) : (finish c s).arg0 = s.arg0 := rfl
@[simp] theorem finish_arg1 (c : Code) (s : State) : (finish c s).arg1 = s.arg1 := rfl
@[simp] theorem finish_arg2 (c : Code) (s : State) : (finish c s).arg2 = s.arg2 := rfl
@[simp] theorem finish_ctrl (c : Code) (s : State) : (finish c s).ctrl = s.ctrl := rfl
@[simp] theorem finish_irq (c : Code) (s : State) : (finish c s).irq = s.irq := rfl
@[simp] theorem finish_txBytes (c : Code) (s : State) : (finish c s).txBytes = s.txBytes := rfl
@[simp] theorem finish_rxBytes (c : Code) (s : State) : (finish c s).rxBytes = s.rxBytes := rfl
@[simp] theorem finish_parseErrs (c : Code) (s : State) : (finish c s).parseErrs = s.parseErrs := rfl
@[simp] theorem finish_unmatched (c : Code) (s : State) : (finish c s).unmatched = s.unmatched := rfl
@[simp] theorem finish_longWarns (c : Code) (s : State) : (finish c s).longWarns = s.longWarns := rfl
@[simp] theorem finish_busErrs (c : Code) (s : State) : (finish c s).busErrs = s.busErrs := rfl
@[simp] theorem finish_lcmd (c : Code) (s : State) : (finish c s).lcmd = s.lcmd := rfl
@[simp] theorem finish_larg0 (c : Code) (s : State) : (finish c s).larg0 = s.larg0 := rfl
@[simp] theorem finish_larg1 (c : Code) (s : State) : (finish c s).larg1 = s.larg1 := rfl
@[simp] theorem finish_larg2 (c : Code) (s : State) : (finish c s).larg2 = s.larg2 := rfl
@[simp] theorem finish_drainMode (c : Code) (s : State) : (finish c s).drainMode = .none := rfl
@[simp] theorem finish_drainN (c : Code) (s : State) : (finish c s).drainN = s.drainN := rfl
@[simp] theorem finish_pkt (c : Code) (s : State) : (finish c s).pkt = s.pkt := rfl
@[simp] theorem finish_link (c : Code) (s : State) : (finish c s).link = s.link := rfl
@[simp] theorem finish_tx (c : Code) (s : State) : (finish c s).tx = s.tx := rfl
@[simp] theorem finish_rx (c : Code) (s : State) : (finish c s).rx = s.rx := rfl
@[simp] theorem finish_slots (c : Code) (s : State) : (finish c s).slots = s.slots := rfl
@[simp] theorem finish_pend (c : Code) (s : State) : (finish c s).pend = s.pend := rfl
@[simp] theorem finish_lmem (c : Code) (s : State) : (finish c s).lmem = s.lmem := rfl
@[simp] theorem finish_txOut (c : Code) (s : State) : (finish c s).txOut = s.txOut := rfl
@[simp] theorem finish_rxWire (c : Code) (s : State) : (finish c s).rxWire = s.rxWire := rfl
@[simp] theorem finish_hostRegs (c : Code) (s : State) : (finish c s).hostRegs = s.hostRegs := rfl
@[simp] theorem finish_hostMem (c : Code) (s : State) : (finish c s).hostMem = s.hostMem := rfl
@[simp] theorem finish_sched (c : Code) (s : State) : (finish c s).sched = s.sched := rfl
@[simp] theorem finish_again (c : Code) (s : State) : (finish c s).again = s.again := rfl

/-! ### `finishWith` -/

@[simp] theorem finishWith_cfg (c : Code) (v : Word) (s : State) : (finishWith c v s).cfg = s.cfg := rfl
@[simp] theorem finishWith_status (c : Code) (v : Word) (s : State) : (finishWith c v s).status = { s.status with code := c, busy := false } := rfl
@[simp] theorem finishWith_result (c : Code) (v : Word) (s : State) : (finishWith c v s).result = v := rfl
@[simp] theorem finishWith_arg0 (c : Code) (v : Word) (s : State) : (finishWith c v s).arg0 = s.arg0 := rfl
@[simp] theorem finishWith_arg1 (c : Code) (v : Word) (s : State) : (finishWith c v s).arg1 = s.arg1 := rfl
@[simp] theorem finishWith_arg2 (c : Code) (v : Word) (s : State) : (finishWith c v s).arg2 = s.arg2 := rfl
@[simp] theorem finishWith_ctrl (c : Code) (v : Word) (s : State) : (finishWith c v s).ctrl = s.ctrl := rfl
@[simp] theorem finishWith_irq (c : Code) (v : Word) (s : State) : (finishWith c v s).irq = s.irq := rfl
@[simp] theorem finishWith_txBytes (c : Code) (v : Word) (s : State) : (finishWith c v s).txBytes = s.txBytes := rfl
@[simp] theorem finishWith_rxBytes (c : Code) (v : Word) (s : State) : (finishWith c v s).rxBytes = s.rxBytes := rfl
@[simp] theorem finishWith_parseErrs (c : Code) (v : Word) (s : State) : (finishWith c v s).parseErrs = s.parseErrs := rfl
@[simp] theorem finishWith_unmatched (c : Code) (v : Word) (s : State) : (finishWith c v s).unmatched = s.unmatched := rfl
@[simp] theorem finishWith_longWarns (c : Code) (v : Word) (s : State) : (finishWith c v s).longWarns = s.longWarns := rfl
@[simp] theorem finishWith_busErrs (c : Code) (v : Word) (s : State) : (finishWith c v s).busErrs = s.busErrs := rfl
@[simp] theorem finishWith_lcmd (c : Code) (v : Word) (s : State) : (finishWith c v s).lcmd = s.lcmd := rfl
@[simp] theorem finishWith_larg0 (c : Code) (v : Word) (s : State) : (finishWith c v s).larg0 = s.larg0 := rfl
@[simp] theorem finishWith_larg1 (c : Code) (v : Word) (s : State) : (finishWith c v s).larg1 = s.larg1 := rfl
@[simp] theorem finishWith_larg2 (c : Code) (v : Word) (s : State) : (finishWith c v s).larg2 = s.larg2 := rfl
@[simp] theorem finishWith_drainMode (c : Code) (v : Word) (s : State) : (finishWith c v s).drainMode = .none := rfl
@[simp] theorem finishWith_drainN (c : Code) (v : Word) (s : State) : (finishWith c v s).drainN = s.drainN := rfl
@[simp] theorem finishWith_pkt (c : Code) (v : Word) (s : State) : (finishWith c v s).pkt = s.pkt := rfl
@[simp] theorem finishWith_link (c : Code) (v : Word) (s : State) : (finishWith c v s).link = s.link := rfl
@[simp] theorem finishWith_tx (c : Code) (v : Word) (s : State) : (finishWith c v s).tx = s.tx := rfl
@[simp] theorem finishWith_rx (c : Code) (v : Word) (s : State) : (finishWith c v s).rx = s.rx := rfl
@[simp] theorem finishWith_slots (c : Code) (v : Word) (s : State) : (finishWith c v s).slots = s.slots := rfl
@[simp] theorem finishWith_pend (c : Code) (v : Word) (s : State) : (finishWith c v s).pend = s.pend := rfl
@[simp] theorem finishWith_lmem (c : Code) (v : Word) (s : State) : (finishWith c v s).lmem = s.lmem := rfl
@[simp] theorem finishWith_txOut (c : Code) (v : Word) (s : State) : (finishWith c v s).txOut = s.txOut := rfl
@[simp] theorem finishWith_rxWire (c : Code) (v : Word) (s : State) : (finishWith c v s).rxWire = s.rxWire := rfl
@[simp] theorem finishWith_hostRegs (c : Code) (v : Word) (s : State) : (finishWith c v s).hostRegs = s.hostRegs := rfl
@[simp] theorem finishWith_hostMem (c : Code) (v : Word) (s : State) : (finishWith c v s).hostMem = s.hostMem := rfl
@[simp] theorem finishWith_sched (c : Code) (v : Word) (s : State) : (finishWith c v s).sched = s.sched := rfl
@[simp] theorem finishWith_again (c : Code) (v : Word) (s : State) : (finishWith c v s).again = s.again := rfl

/-! ### `State.memWrite` -/

@[simp] theorem State.memWrite_cfg (s : State) (a : Nat) (b : List Byte) : (s.memWrite a b).cfg = s.cfg := rfl
@[simp] theorem State.memWrite_status (s : State) (a : Nat) (b : List Byte) : (s.memWrite a b).status = s.status := rfl
@[simp] theorem State.memWrite_result (s : State) (a : Nat) (b : List Byte) : (s.memWrite a b).result = s.result := rfl
@[simp] theorem State.memWrite_arg0 (s : State) (a : Nat) (b : List Byte) : (s.memWrite a b).arg0 = s.arg0 := rfl
@[simp] theorem State.memWrite_arg1 (s : State) (a : Nat) (b : List Byte) : (s.memWrite a b).arg1 = s.arg1 := rfl
@[simp] theorem State.memWrite_arg2 (s : State) (a : Nat) (b : List Byte) : (s.memWrite a b).arg2 = s.arg2 := rfl
@[simp] theorem State.memWrite_ctrl (s : State) (a : Nat) (b : List Byte) : (s.memWrite a b).ctrl = s.ctrl := rfl
@[simp] theorem State.memWrite_irq (s : State) (a : Nat) (b : List Byte) : (s.memWrite a b).irq = s.irq := rfl
@[simp] theorem State.memWrite_txBytes (s : State) (a : Nat) (b : List Byte) : (s.memWrite a b).txBytes = s.txBytes := rfl
@[simp] theorem State.memWrite_rxBytes (s : State) (a : Nat) (b : List Byte) : (s.memWrite a b).rxBytes = s.rxBytes := rfl
@[simp] theorem State.memWrite_parseErrs (s : State) (a : Nat) (b : List Byte) : (s.memWrite a b).parseErrs = s.parseErrs := rfl
@[simp] theorem State.memWrite_unmatched (s : State) (a : Nat) (b : List Byte) : (s.memWrite a b).unmatched = s.unmatched := rfl
@[simp] theorem State.memWrite_longWarns (s : State) (a : Nat) (b : List Byte) : (s.memWrite a b).longWarns = s.longWarns := rfl
@[simp] theorem State.memWrite_busErrs (s : State) (a : Nat) (b : List Byte) : (s.memWrite a b).busErrs = s.busErrs := rfl
@[simp] theorem State.memWrite_lcmd (s : State) (a : Nat) (b : List Byte) : (s.memWrite a b).lcmd = s.lcmd := rfl
@[simp] theorem State.memWrite_larg0 (s : State) (a : Nat) (b : List Byte) : (s.memWrite a b).larg0 = s.larg0 := rfl
@[simp] theorem State.memWrite_larg1 (s : State) (a : Nat) (b : List Byte) : (s.memWrite a b).larg1 = s.larg1 := rfl
@[simp] theorem State.memWrite_larg2 (s : State) (a : Nat) (b : List Byte) : (s.memWrite a b).larg2 = s.larg2 := rfl
@[simp] theorem State.memWrite_drainMode (s : State) (a : Nat) (b : List Byte) : (s.memWrite a b).drainMode = s.drainMode := rfl
@[simp] theorem State.memWrite_drainN (s : State) (a : Nat) (b : List Byte) : (s.memWrite a b).drainN = s.drainN := rfl
@[simp] theorem State.memWrite_pkt (s : State) (a : Nat) (b : List Byte) : (s.memWrite a b).pkt = s.pkt := rfl
@[simp] theorem State.memWrite_link (s : State) (a : Nat) (b : List Byte) : (s.memWrite a b).link = s.link := rfl
@[simp] theorem State.memWrite_tx (s : State) (a : Nat) (b : List Byte) : (s.memWrite a b).tx = s.tx := rfl
@[simp] theorem State.memWrite_rx (s : State) (a : Nat) (b : List Byte) : (s.memWrite a b).rx = s.rx := rfl
@[simp] theorem State.memWrite_slots (s : State) (a : Nat) (b : List Byte) : (s.memWrite a b).slots = s.slots := rfl
@[simp] theorem State.memWrite_pend (s : State) (a : Nat) (b : List Byte) : (s.memWrite a b).pend = s.pend := rfl
@[simp] theorem State.memWrite_lmem (s : State) (a : Nat) (b : List Byte) : (s.memWrite a b).lmem = Memory.write s.lmem a b := rfl
@[simp] theorem State.memWrite_txOut (s : State) (a : Nat) (b : List Byte) : (s.memWrite a b).txOut = s.txOut := rfl
@[simp] theorem State.memWrite_rxWire (s : State) (a : Nat) (b : List Byte) : (s.memWrite a b).rxWire = s.rxWire := rfl
@[simp] theorem State.memWrite_hostRegs (s : State) (a : Nat) (b : List Byte) : (s.memWrite a b).hostRegs = s.hostRegs := rfl
@[simp] theorem State.memWrite_hostMem (s : State) (a : Nat) (b : List Byte) : (s.memWrite a b).hostMem = s.hostMem := rfl
@[simp] theorem State.memWrite_sched (s : State) (a : Nat) (b : List Byte) : (s.memWrite a b).sched = s.sched := rfl
@[simp] theorem State.memWrite_again (s : State) (a : Nat) (b : List Byte) : (s.memWrite a b).again = s.again := rfl

/-! ### `State.txReclaim` -/

@[simp] theorem State.txReclaim_cfg (s : State) : (s.txReclaim).cfg = s.cfg := rfl
@[simp] theorem State.txReclaim_status (s : State) : (s.txReclaim).status = s.status := rfl
@[simp] theorem State.txReclaim_result (s : State) : (s.txReclaim).result = s.result := rfl
@[simp] theorem State.txReclaim_arg0 (s : State) : (s.txReclaim).arg0 = s.arg0 := rfl
@[simp] theorem State.txReclaim_arg1 (s : State) : (s.txReclaim).arg1 = s.arg1 := rfl
@[simp] theorem State.txReclaim_arg2 (s : State) : (s.txReclaim).arg2 = s.arg2 := rfl
@[simp] theorem State.txReclaim_ctrl (s : State) : (s.txReclaim).ctrl = s.ctrl := rfl
@[simp] theorem State.txReclaim_irq (s : State) : (s.txReclaim).irq = s.irq := rfl
@[simp] theorem State.txReclaim_txBytes (s : State) : (s.txReclaim).txBytes = s.txBytes := rfl
@[simp] theorem State.txReclaim_rxBytes (s : State) : (s.txReclaim).rxBytes = s.rxBytes := rfl
@[simp] theorem State.txReclaim_parseErrs (s : State) : (s.txReclaim).parseErrs = s.parseErrs := rfl
@[simp] theorem State.txReclaim_unmatched (s : State) : (s.txReclaim).unmatched = s.unmatched := rfl
@[simp] theorem State.txReclaim_longWarns (s : State) : (s.txReclaim).longWarns = s.longWarns := rfl
@[simp] theorem State.txReclaim_busErrs (s : State) : (s.txReclaim).busErrs = s.busErrs := rfl
@[simp] theorem State.txReclaim_lcmd (s : State) : (s.txReclaim).lcmd = s.lcmd := rfl
@[simp] theorem State.txReclaim_larg0 (s : State) : (s.txReclaim).larg0 = s.larg0 := rfl
@[simp] theorem State.txReclaim_larg1 (s : State) : (s.txReclaim).larg1 = s.larg1 := rfl
@[simp] theorem State.txReclaim_larg2 (s : State) : (s.txReclaim).larg2 = s.larg2 := rfl
@[simp] theorem State.txReclaim_drainMode (s : State) : (s.txReclaim).drainMode = s.drainMode := rfl
@[simp] theorem State.txReclaim_drainN (s : State) : (s.txReclaim).drainN = s.drainN := rfl
@[simp] theorem State.txReclaim_pkt (s : State) : (s.txReclaim).pkt = s.pkt := rfl
@[simp] theorem State.txReclaim_link (s : State) : (s.txReclaim).link = s.link := rfl
@[simp] theorem State.txReclaim_tx (s : State) : (s.txReclaim).tx = Machine.txReclaim s.tx := rfl
@[simp] theorem State.txReclaim_rx (s : State) : (s.txReclaim).rx = s.rx := rfl
@[simp] theorem State.txReclaim_slots (s : State) : (s.txReclaim).slots = s.slots := rfl
@[simp] theorem State.txReclaim_pend (s : State) : (s.txReclaim).pend = s.pend := rfl
@[simp] theorem State.txReclaim_lmem (s : State) : (s.txReclaim).lmem = s.lmem := rfl
@[simp] theorem State.txReclaim_txOut (s : State) : (s.txReclaim).txOut = s.txOut := rfl
@[simp] theorem State.txReclaim_rxWire (s : State) : (s.txReclaim).rxWire = s.rxWire := rfl
@[simp] theorem State.txReclaim_hostRegs (s : State) : (s.txReclaim).hostRegs = s.hostRegs := rfl
@[simp] theorem State.txReclaim_hostMem (s : State) : (s.txReclaim).hostMem = s.hostMem := rfl
@[simp] theorem State.txReclaim_sched (s : State) : (s.txReclaim).sched = s.sched := rfl
@[simp] theorem State.txReclaim_again (s : State) : (s.txReclaim).again = s.again := rfl

/-! ### `State.txFill` -/

@[simp] theorem State.txFill_cfg (s : State) (h : List Byte) (ncl : Byte) (x : List Byte) : (s.txFill h ncl x).cfg = s.cfg := rfl
@[simp] theorem State.txFill_status (s : State) (h : List Byte) (ncl : Byte) (x : List Byte) : (s.txFill h ncl x).status = s.status := rfl
@[simp] theorem State.txFill_result (s : State) (h : List Byte) (ncl : Byte) (x : List Byte) : (s.txFill h ncl x).result = s.result := rfl
@[simp] theorem State.txFill_arg0 (s : State) (h : List Byte) (ncl : Byte) (x : List Byte) : (s.txFill h ncl x).arg0 = s.arg0 := rfl
@[simp] theorem State.txFill_arg1 (s : State) (h : List Byte) (ncl : Byte) (x : List Byte) : (s.txFill h ncl x).arg1 = s.arg1 := rfl
@[simp] theorem State.txFill_arg2 (s : State) (h : List Byte) (ncl : Byte) (x : List Byte) : (s.txFill h ncl x).arg2 = s.arg2 := rfl
@[simp] theorem State.txFill_ctrl (s : State) (h : List Byte) (ncl : Byte) (x : List Byte) : (s.txFill h ncl x).ctrl = s.ctrl := rfl
@[simp] theorem State.txFill_irq (s : State) (h : List Byte) (ncl : Byte) (x : List Byte) : (s.txFill h ncl x).irq = s.irq := rfl
@[simp] theorem State.txFill_txBytes (s : State) (h : List Byte) (ncl : Byte) (x : List Byte) : (s.txFill h ncl x).txBytes = s.txBytes + wordOfNat h.length + wordOfNat x.length := rfl
@[simp] theorem State.txFill_rxBytes (s : State) (h : List Byte) (ncl : Byte) (x : List Byte) : (s.txFill h ncl x).rxBytes = s.rxBytes := rfl
@[simp] theorem State.txFill_parseErrs (s : State) (h : List Byte) (ncl : Byte) (x : List Byte) : (s.txFill h ncl x).parseErrs = s.parseErrs := rfl
@[simp] theorem State.txFill_unmatched (s : State) (h : List Byte) (ncl : Byte) (x : List Byte) : (s.txFill h ncl x).unmatched = s.unmatched := rfl
@[simp] theorem State.txFill_longWarns (s : State) (h : List Byte) (ncl : Byte) (x : List Byte) : (s.txFill h ncl x).longWarns = s.longWarns := rfl
@[simp] theorem State.txFill_busErrs (s : State) (h : List Byte) (ncl : Byte) (x : List Byte) : (s.txFill h ncl x).busErrs = s.busErrs := rfl
@[simp] theorem State.txFill_lcmd (s : State) (h : List Byte) (ncl : Byte) (x : List Byte) : (s.txFill h ncl x).lcmd = s.lcmd := rfl
@[simp] theorem State.txFill_larg0 (s : State) (h : List Byte) (ncl : Byte) (x : List Byte) : (s.txFill h ncl x).larg0 = s.larg0 := rfl
@[simp] theorem State.txFill_larg1 (s : State) (h : List Byte) (ncl : Byte) (x : List Byte) : (s.txFill h ncl x).larg1 = s.larg1 := rfl
@[simp] theorem State.txFill_larg2 (s : State) (h : List Byte) (ncl : Byte) (x : List Byte) : (s.txFill h ncl x).larg2 = s.larg2 := rfl
@[simp] theorem State.txFill_drainMode (s : State) (h : List Byte) (ncl : Byte) (x : List Byte) : (s.txFill h ncl x).drainMode = s.drainMode := rfl
@[simp] theorem State.txFill_drainN (s : State) (h : List Byte) (ncl : Byte) (x : List Byte) : (s.txFill h ncl x).drainN = s.drainN := rfl
@[simp] theorem State.txFill_pkt (s : State) (h : List Byte) (ncl : Byte) (x : List Byte) : (s.txFill h ncl x).pkt = s.pkt := rfl
@[simp] theorem State.txFill_link (s : State) (h : List Byte) (ncl : Byte) (x : List Byte) : (s.txFill h ncl x).link = s.link := rfl
@[simp] theorem State.txFill_tx (s : State) (h : List Byte) (ncl : Byte) (x : List Byte) : (s.txFill h ncl x).tx = Machine.txFill s.tx h ncl x s.ctrl.txie := rfl
@[simp] theorem State.txFill_rx (s : State) (h : List Byte) (ncl : Byte) (x : List Byte) : (s.txFill h ncl x).rx = s.rx := rfl
@[simp] theorem State.txFill_slots (s : State) (h : List Byte) (ncl : Byte) (x : List Byte) : (s.txFill h ncl x).slots = s.slots := rfl
@[simp] theorem State.txFill_pend (s : State) (h : List Byte) (ncl : Byte) (x : List Byte) : (s.txFill h ncl x).pend = s.pend := rfl
@[simp] theorem State.txFill_lmem (s : State) (h : List Byte) (ncl : Byte) (x : List Byte) : (s.txFill h ncl x).lmem = s.lmem := rfl
@[simp] theorem State.txFill_txOut (s : State) (h : List Byte) (ncl : Byte) (x : List Byte) : (s.txFill h ncl x).txOut = s.txOut := rfl
@[simp] theorem State.txFill_rxWire (s : State) (h : List Byte) (ncl : Byte) (x : List Byte) : (s.txFill h ncl x).rxWire = s.rxWire := rfl
@[simp] theorem State.txFill_hostRegs (s : State) (h : List Byte) (ncl : Byte) (x : List Byte) : (s.txFill h ncl x).hostRegs = s.hostRegs := rfl
@[simp] theorem State.txFill_hostMem (s : State) (h : List Byte) (ncl : Byte) (x : List Byte) : (s.txFill h ncl x).hostMem = s.hostMem := rfl
@[simp] theorem State.txFill_sched (s : State) (h : List Byte) (ncl : Byte) (x : List Byte) : (s.txFill h ncl x).sched = s.sched := rfl
@[simp] theorem State.txFill_again (s : State) (h : List Byte) (ncl : Byte) (x : List Byte) : (s.txFill h ncl x).again = s.again := rfl

/-! ### `State.rxRearm` -/

@[simp] theorem State.rxRearm_cfg (s : State) : (s.rxRearm).cfg = s.cfg := rfl
@[simp] theorem State.rxRearm_status (s : State) : (s.rxRearm).status = s.status := rfl
@[simp] theorem State.rxRearm_result (s : State) : (s.rxRearm).result = s.result := rfl
@[simp] theorem State.rxRearm_arg0 (s : State) : (s.rxRearm).arg0 = s.arg0 := rfl
@[simp] theorem State.rxRearm_arg1 (s : State) : (s.rxRearm).arg1 = s.arg1 := rfl
@[simp] theorem State.rxRearm_arg2 (s : State) : (s.rxRearm).arg2 = s.arg2 := rfl
@[simp] theorem State.rxRearm_ctrl (s : State) : (s.rxRearm).ctrl = s.ctrl := rfl
@[simp] theorem State.rxRearm_irq (s : State) : (s.rxRearm).irq = s.irq := rfl
@[simp] theorem State.rxRearm_txBytes (s : State) : (s.rxRearm).txBytes = s.txBytes := rfl
@[simp] theorem State.rxRearm_rxBytes (s : State) : (s.rxRearm).rxBytes = s.rxBytes := rfl
@[simp] theorem State.rxRearm_parseErrs (s : State) : (s.rxRearm).parseErrs = s.parseErrs := rfl
@[simp] theorem State.rxRearm_unmatched (s : State) : (s.rxRearm).unmatched = s.unmatched := rfl
@[simp] theorem State.rxRearm_longWarns (s : State) : (s.rxRearm).longWarns = s.longWarns := rfl
@[simp] theorem State.rxRearm_busErrs (s : State) : (s.rxRearm).busErrs = s.busErrs := rfl
@[simp] theorem State.rxRearm_lcmd (s : State) : (s.rxRearm).lcmd = s.lcmd := rfl
@[simp] theorem State.rxRearm_larg0 (s : State) : (s.rxRearm).larg0 = s.larg0 := rfl
@[simp] theorem State.rxRearm_larg1 (s : State) : (s.rxRearm).larg1 = s.larg1 := rfl
@[simp] theorem State.rxRearm_larg2 (s : State) : (s.rxRearm).larg2 = s.larg2 := rfl
@[simp] theorem State.rxRearm_drainMode (s : State) : (s.rxRearm).drainMode = s.drainMode := rfl
@[simp] theorem State.rxRearm_drainN (s : State) : (s.rxRearm).drainN = s.drainN := rfl
@[simp] theorem State.rxRearm_pkt (s : State) : (s.rxRearm).pkt = s.pkt := rfl
@[simp] theorem State.rxRearm_link (s : State) : (s.rxRearm).link = s.link := rfl
@[simp] theorem State.rxRearm_tx (s : State) : (s.rxRearm).tx = s.tx := rfl
@[simp] theorem State.rxRearm_rx (s : State) : (s.rxRearm).rx = Machine.rxRearm s.rx s.ctrl.rxie := rfl
@[simp] theorem State.rxRearm_slots (s : State) : (s.rxRearm).slots = s.slots := rfl
@[simp] theorem State.rxRearm_pend (s : State) : (s.rxRearm).pend = s.pend := rfl
@[simp] theorem State.rxRearm_lmem (s : State) : (s.rxRearm).lmem = s.lmem := rfl
@[simp] theorem State.rxRearm_txOut (s : State) : (s.rxRearm).txOut = s.txOut := rfl
@[simp] theorem State.rxRearm_rxWire (s : State) : (s.rxRearm).rxWire = s.rxWire := rfl
@[simp] theorem State.rxRearm_hostRegs (s : State) : (s.rxRearm).hostRegs = s.hostRegs := rfl
@[simp] theorem State.rxRearm_hostMem (s : State) : (s.rxRearm).hostMem = s.hostMem := rfl
@[simp] theorem State.rxRearm_sched (s : State) : (s.rxRearm).sched = s.sched := rfl
@[simp] theorem State.rxRearm_again (s : State) : (s.rxRearm).again = s.again := rfl

/-! ### The rings' own updates -/

@[simp] theorem txReclaim_desc (r : TxRing) : (txReclaim r).desc = r.desc := rfl
@[simp] theorem txReclaim_hdr (r : TxRing) : (txReclaim r).hdr = r.hdr := rfl
@[simp] theorem txReclaim_data (r : TxRing) : (txReclaim r).data = r.data := rfl
@[simp] theorem txReclaim_lptr (r : TxRing) : (txReclaim r).lptr = r.lptr := rfl
@[simp] theorem txReclaim_at (r : TxRing) (i : Nat) : (txReclaim r).at i = r.at i := rfl

/-! ### The turns -/

@[simp] theorem nextTurn_cons (s : State) (t : Turn) (rest : List Turn) (h : s.sched = t :: rest) :
    nextTurn s = (t, { s with sched := rest }) := by
  simp [nextTurn, h]

@[simp] theorem nextTurn_again (s : State) (t : Turn) (rest : List Turn) (h : s.sched = []) (h' : s.again = t :: rest) :
    nextTurn s = (t, { s with sched := rest }) := by
  simp [nextTurn, h, h']

@[simp] theorem nextTurn_nil (s : State) (h : s.sched = []) (h' : s.again = []) : nextTurn s = (.core, s) := by
  simp [nextTurn, h, h']

/-- What the choice of the next turn changes: the schedule alone. -/
theorem nextTurn_frame (s : State) : (nextTurn s).2 = { s with sched := (nextTurn s).2.sched } := by
  unfold nextTurn
  split
  · rfl
  · split <;> rfl

/-! ### Reset -/

@[simp] theorem resetEvent_cfg (s : State) : (resetEvent s).cfg = s.cfg := rfl
@[simp] theorem resetEvent_lmem (s : State) : (resetEvent s).lmem = s.lmem := rfl
@[simp] theorem resetEvent_txOut (s : State) : (resetEvent s).txOut = s.txOut := rfl
@[simp] theorem resetEvent_rxWire (s : State) : (resetEvent s).rxWire = s.rxWire := rfl
@[simp] theorem resetEvent_hostRegs (s : State) : (resetEvent s).hostRegs = s.hostRegs := rfl
@[simp] theorem resetEvent_hostMem (s : State) : (resetEvent s).hostMem = s.hostMem := rfl
@[simp] theorem resetEvent_sched (s : State) : (resetEvent s).sched = s.sched := rfl
@[simp] theorem resetEvent_again (s : State) : (resetEvent s).again = s.again := rfl

end Sys2Proof.Machine
end

