-- ==== Sys2Proof/Laws/Rings.lean ====
section
/-! SUPPORT. Buffers and the ring procedures: what each leaves, once (spec/42_transport.md R112, R113, R115, R116,
R119). -/

namespace Sys2Proof.Machine

/-! ### Buffers -/

@[simp] theorem bufRead_length (d : Nat → Byte) (w : List Byte) (n : Nat) : (bufRead d w n).length = n := by
  simp [bufRead]

/-- Within what has been written, a buffer reads as what was written: no free value appears. -/
theorem bufRead_written (d : Nat → Byte) (w : List Byte) (n : Nat) (h : n ≤ w.length) : bufRead d w n = w.take n := by
  apply List.ext_getElem
  · simp [h]
  · intro k hk _
    have hk' : k < w.length := by simp at hk; omega
    simp [bufRead, List.getD_eq_getElem?_getD, hk']

@[simp] theorem bufWrite_length (s w : List Byte) : (bufWrite s w).length = max s.length w.length := by
  simp [bufWrite]; omega

/-- What has just been written to a buffer is what its first bytes read as. -/
@[simp] theorem bufRead_bufWrite (d : Nat → Byte) (s w : List Byte) : bufRead d (bufWrite s w) s.length = s := by
  rw [bufRead_written d _ _ (by simp)]
  simp [bufWrite]

@[simp] theorem bufWrite_nil (w : List Byte) : bufWrite [] w = w := by simp [bufWrite]

/-! ### The TX ring -/

/-- `reclaim_tx()` moves the drained head of the busy queue to the tail of the free queue: the two queues together are
rotated, and the busy queue is left empty or with an enabled head. -/
theorem txReclaim_spec (r : TxRing) :
    ∃ drained, r.busy = drained ++ (txReclaim r).busy ∧ (txReclaim r).free = r.free ++ drained ∧
      (∀ i ∈ drained, (r.at i).en = false) ∧
      ((txReclaim r).busy = [] ∨ ∃ i rest, (txReclaim r).busy = i :: rest ∧ (r.at i).en = true) := by
  refine ⟨r.busy.takeWhile fun i => !(r.at i).en, ?_, rfl, fun i hi => ?_, ?_⟩
  · exact (List.takeWhile_append_dropWhile ..).symm
  · simpa using List.mem_takeWhile_imp hi
  · cases hb : (txReclaim r).busy with
    | nil => exact .inl rfl
    | cons i rest =>
      refine .inr ⟨i, rest, rfl, ?_⟩
      have := List.head?_dropWhile_not (fun i => !(r.at i).en) r.busy
      simp only [txReclaim] at hb
      rw [hb] at this
      simpa using this

theorem txFill_empty (r : TxRing) (h : List Byte) (ncl : Byte) (x : List Byte) (ie : Bool) (hf : r.free = []) :
    txFill r h ncl x ie = r := by
  simp [txFill, hf]

/-- `tx_fill` on a ring whose free queue is `i :: rest` (R113). -/
theorem txFill_spec (r : TxRing) (h : List Byte) (ncl : Byte) (x : List Byte) (ie : Bool) {i : Nat} {rest : List Nat}
    (hf : r.free = i :: rest) :
    (txFill r h ncl x ie).free = rest ∧ (txFill r h ncl x ie).busy = r.busy ++ [i] ∧
      (txFill r h ncl x ie).lptr = r.lptr ∧
      (∀ j, j ≠ i → (txFill r h ncl x ie).at j = r.at j) ∧
      (i < r.desc.length → (txFill r h ncl x ie).at i =
        { r.at i with
          en := true, ie := ie, hc := true, dc := !x.isEmpty, ncl := ncl
          hlen := BitVec.ofNat 8 h.length, dlen := BitVec.ofNat 24 x.length }) ∧
      (i < r.hdr.length → (txFill r h ncl x ie).hdrBytes i h.length = h) ∧
      (i < r.data.length → (txFill r h ncl x ie).dataBytes i x.length = x) := by
  simp only [txFill, hf]
  refine ⟨trivial, trivial, trivial, fun j hj => ?_, fun hi => ?_, fun hi => ?_, fun hi => ?_⟩
  · simp [TxRing.at, List.getD_eq_getElem?_getD, Ne.symm hj]
  · simp [TxRing.at, List.getD_eq_getElem?_getD, hi]
  · simp [TxRing.hdrBytes, List.getD_eq_getElem?_getD, hi]
  · simp [TxRing.dataBytes, List.getD_eq_getElem?_getD, hi]

/-! ### The RX ring -/

/-- `rx_ready()` (R115). -/
theorem rxHead_eq_some_iff (r : RxRing) (i : Nat) :
    rxHead r = some i ↔ (∃ rest, r.busy = i :: rest) ∧ (r.at i).en = false := by
  unfold rxHead
  split
  · simp_all
  · rename_i j rest hb
    by_cases he : (r.at j).en = true
    · simp only [he, if_true, reduceCtorEq, false_iff, not_and]
      rintro ⟨rest', h⟩
      rw [hb, List.cons.injEq] at h
      simp [← h.1, he]
    · simp only [he, Bool.false_eq_true, if_false, Option.some.injEq]
      constructor
      · rintro rfl
        exact ⟨⟨rest, hb⟩, by simpa using he⟩
      · rintro ⟨⟨rest', h⟩, -⟩
        rw [hb, List.cons.injEq] at h
        exact h.1

/-- `rearm_rx()` with an empty free queue, the case R117 leaves: the consumed descriptor is re-armed at the tail. -/
theorem rxRearm_spec (r : RxRing) (ie : Bool) {i : Nat} {rest : List Nat} (hb : r.busy = i :: rest)
    (hf : r.free = []) :
    (rxRearm r ie).free = [] ∧ (rxRearm r ie).busy = rest ++ [i] ∧ (rxRearm r ie).lptr = r.lptr ∧
      (rxRearm r ie).buf = r.buf ∧ (∀ j, j ≠ i → (rxRearm r ie).at j = r.at j) ∧
      (i < r.desc.length →
        (rxRearm r ie).at i = { r.at i with size := 0, tr := false, ie := ie, en := true }) := by
  simp only [rxRearm, hb, hf, List.nil_append]
  refine ⟨trivial, trivial, trivial, trivial, fun j hj => ?_, fun hi => ?_⟩
  · simp [RxRing.at, List.getD_eq_getElem?_getD, Ne.symm hj]
  · simp [RxRing.at, List.getD_eq_getElem?_getD, hi]

theorem rxRearm_idle (r : RxRing) (ie : Bool) (hb : r.busy = []) : rxRearm r ie = r := by
  simp [rxRearm, hb]

/-- Whatever the free queue, `rearm_rx()` rotates the two queues together by one. -/
theorem rxRearm_queues (r : RxRing) (ie : Bool) {i : Nat} {rest : List Nat} (hb : r.busy = i :: rest) :
    (rxRearm r ie).busy ++ (rxRearm r ie).free = rest ++ r.free ++ [i] := by
  cases hf : r.free with
  | nil => simp [rxRearm, hb, hf]
  | cons j free => simp [rxRearm, hb, hf]

/-- RX_INIT's loop moves the whole free queue, in order, to the tail of the busy queue (R119). -/
theorem rxArmAll_queues (ie : Bool) (q : List Nat) (r : RxRing) (hq : r.free = q) :
    (rxArmAll ie q r).free = [] ∧ (rxArmAll ie q r).busy = r.busy ++ q ∧ (rxArmAll ie q r).lptr = r.lptr ∧
      (rxArmAll ie q r).buf = r.buf := by
  induction q generalizing r with
  | nil => simp [rxArmAll, hq]
  | cons j q ih =>
    simp only [rxArmAll]
    refine (ih _ rfl).imp id fun h => ?_
    simpa using h

end Sys2Proof.Machine
end

