-- ==== Sys2Proof/Laws/Slots.lean ====
section
/-! SUPPORT. The slot procedures: what each leaves, once (spec/43_translog.md R130 to R132). -/

namespace Sys2Proof.Machine

/-- `grab` on a full table. -/
theorem grab_none_iff (s : State) (hd : Bool) (a : Word) :
    s.grab hd a = none ↔ ∀ e ∈ s.slots, e.used = true := by
  unfold State.grab
  split
  · rename_i h
    simpa [List.findIdx?_eq_none_iff] using h
  · rename_i j h
    simp only [reduceCtorEq, false_iff]
    intro hall
    rw [List.findIdx?_eq_some_iff_getElem] at h
    obtain ⟨hj, h, -⟩ := h
    simp [hall _ (List.getElem_mem hj)] at h

/-- `grab` on a table with a free slot: the lowest one is taken, and nothing but it and PEND changes (R131). -/
theorem grab_some (s : State) (hd : Bool) (a : Word) {j : Nat} {t : State} (h : s.grab hd a = some (j, t)) :
    j < s.slots.length ∧ (s.slot j).used = false ∧ (∀ k, k < j → (s.slot k).used = true) ∧
      t = { s with slots := s.slots.set j ⟨true, hd, a⟩, pend := s.pend + 1 } := by
  unfold State.grab at h
  split at h
  · simp at h
  · rename_i k hk
    simp only [Option.some.injEq, Prod.mk.injEq] at h
    obtain ⟨rfl, rfl⟩ := h
    rw [List.findIdx?_eq_some_iff_getElem] at hk
    obtain ⟨hj, h1, h2⟩ := hk
    refine ⟨hj, ?_, fun m hm => ?_, rfl⟩
    · simpa [State.slot, List.getD_eq_getElem?_getD, hj] using h1
    · simpa [State.slot, List.getD_eq_getElem?_getD, Nat.lt_trans hm hj] using h2 m hm

/-- `release` on a slot in use (R132). -/
theorem release_used (s : State) (j : Nat) (hj : j < s.cfg.cSlots) (h : (s.slot j).used = true) :
    s.release j = { s with slots := s.slots.set j Slot.idle, pend := s.pend - 1 } := by
  simp [State.release, hj, h, Slot.idle]

/-- `release` on a free or out-of-range id (R132). -/
theorem release_idle (s : State) (j : Nat) (h : ¬ (j < s.cfg.cSlots ∧ (s.slot j).used = true)) : s.release j = s := by
  simp only [State.release, Bool.and_eq_true, decide_eq_true_eq, h, if_false]

/-- `release` changes at most the slot table and PEND. -/
theorem release_frame (s : State) (j : Nat) : ∃ slots pend, s.release j = { s with slots := slots, pend := pend } := by
  unfold State.release
  split
  · exact ⟨_, _, rfl⟩
  · exact ⟨s.slots, s.pend, rfl⟩

/-- `release` of every slot changes at most the slot table and PEND. -/
theorem releaseAll_frame (s : State) : ∃ slots pend, s.releaseAll = { s with slots := slots, pend := pend } := by
  have key : ∀ (l : List Nat) (u : State), ∃ slots pend,
      l.foldl State.release u = { u with slots := slots, pend := pend } := by
    intro l
    induction l with
    | nil => exact fun u => ⟨u.slots, u.pend, rfl⟩
    | cons j l ih =>
      intro u
      obtain ⟨slots, pend, h⟩ := release_frame u j
      rw [List.foldl_cons, h]
      obtain ⟨slots', pend', h'⟩ := ih { u with slots := slots, pend := pend }
      exact ⟨slots', pend', h'⟩
  exact key _ s

end Sys2Proof.Machine
end

