-- ==== Sys2Proof/Laws/Words.lean ====
section
/-! SUPPORT. The bits of words made of fields, and big-endian bytes read back (spec/00_scope.md R10, R11). -/

namespace Sys2Proof.Machine

/-- The bits of a field. -/
theorem getLsbD_fieldAt {n : Nat} (v : BitVec n) (lo i : Nat) :
    (fieldAt v lo).getLsbD i = (decide (i < 32) && decide (lo ≤ i) && v.getLsbD (i - lo)) := by
  simp only [fieldAt, BitVec.getLsbD_shiftLeft, BitVec.getLsbD_setWidth]
  by_cases h : i < 32 <;> by_cases h' : i < lo
  · simp [h, h']
  · have h'' : lo ≤ i := by omega
    have : i - lo < 32 := by omega
    simp [h, h', h'', this]
  · simp [h]
  · simp [h]

/-- The bit of a flag. -/
theorem getLsbD_flagAt (b : Bool) (k i : Nat) :
    (flagAt b k).getLsbD i = (decide (i < 32) && decide (i = k) && b) := by
  rw [flagAt, getLsbD_fieldAt]
  by_cases h : i < 32 <;> by_cases h' : i = k
  · simp [h']
  · by_cases h'' : k ≤ i
    · have : i - k ≠ 0 := by omega
      simp [h', h'', this]
    · simp [h', h'']
  · simp [h]
  · simp [h]

@[simp] theorem be16_length (v : BitVec 16) : (be16 v).length = 2 := rfl
@[simp] theorem be24_length (v : BitVec 24) : (be24 v).length = 3 := rfl
@[simp] theorem be32_length (v : Word) : (be32 v).length = 4 := rfl

/-- Bytes read through a prefix. -/
theorem byteAt_append_right (p q : List Byte) (k : Nat) : byteAt (p ++ q) (p.length + k) = byteAt q k := by
  simp [byteAt, List.getD_eq_getElem?_getD, List.getElem?_append_right]

/-- `rd_be16` undoes `be16` wherever the bytes stand. -/
theorem rdBe16_be16 (p q : List Byte) (v : BitVec 16) : rdBe16 (p ++ be16 v ++ q) p.length = v := by
  have h0 := byteAt_append_right p (be16 v ++ q) 0
  have h1 := byteAt_append_right p (be16 v ++ q) 1
  simp only [Nat.add_zero, ← List.append_assoc] at h0 h1
  simp only [rdBe16, h0, h1]
  apply BitVec.eq_of_getLsbD_eq
  intro i hi
  simp only [be16, byteAt, List.cons_append, List.nil_append, List.getD_cons_zero, List.getD_cons_succ,
    BitVec.getLsbD_append, BitVec.getLsbD_extractLsb']
  split
  · simp [*]
  · rw [show 8 + (i - 8) = i by omega]
    simp
    omega

/-- `rd_be24` undoes `be24` wherever the bytes stand. -/
theorem rdBe24_be24 (p q : List Byte) (v : BitVec 24) : rdBe24 (p ++ be24 v ++ q) p.length = v := by
  have h0 := byteAt_append_right p (be24 v ++ q) 0
  have h1 := byteAt_append_right p (be24 v ++ q) 1
  have h2 := byteAt_append_right p (be24 v ++ q) 2
  simp only [Nat.add_zero, ← List.append_assoc] at h0 h1 h2
  simp only [rdBe24, h0, h1, h2]
  apply BitVec.eq_of_getLsbD_eq
  intro i hi
  simp only [be24, byteAt, List.cons_append, List.nil_append, List.getD_cons_zero, List.getD_cons_succ,
    BitVec.getLsbD_append, BitVec.getLsbD_extractLsb']
  split
  · simp [*]
  · split
    · rw [show 8 + (i - 8) = i by omega]
      simp [*]
    · rw [show 16 + (i - 8 - 8) = i by omega]
      simp
      omega

/-- `rd_be32` undoes `be32` wherever the bytes stand. -/
theorem rdBe32_be32 (p q : List Byte) (v : Word) : rdBe32 (p ++ be32 v ++ q) p.length = v := by
  have h0 := byteAt_append_right p (be32 v ++ q) 0
  have h1 := byteAt_append_right p (be32 v ++ q) 1
  have h2 := byteAt_append_right p (be32 v ++ q) 2
  have h3 := byteAt_append_right p (be32 v ++ q) 3
  simp only [Nat.add_zero, ← List.append_assoc] at h0 h1 h2 h3
  simp only [rdBe32, h0, h1, h2, h3]
  apply BitVec.eq_of_getLsbD_eq
  intro i hi
  simp only [be32, byteAt, List.cons_append, List.nil_append, List.getD_cons_zero, List.getD_cons_succ,
    BitVec.getLsbD_append, BitVec.getLsbD_extractLsb']
  split
  · simp [*]
  · split
    · rw [show 8 + (i - 8) = i by omega]
      simp [*]
    · split
      · rw [show 16 + (i - 8 - 8) = i by omega]
        simp [*]
      · rw [show 24 + (i - 8 - 8 - 8) = i by omega]
        simp
        omega

end Sys2Proof.Machine
end

