-- ==== Sys2Proof/Laws/Wire.lean ====
section
/-! SUPPORT. Lengths and offsets of the packet on the wire (spec/30_encoding.md R74, R75; spec/41_codec.md R97, R99,
R100). -/

namespace Sys2Proof.Machine

@[simp] theorem pathBytes_length (path : List Byte) (len : Byte) : (pathBytes path len).length = len.toNat := by
  simp [pathBytes]

/-- The offset of the header CRC is the base length and the reply path together. -/
theorem offsetOfHcrc_eq (c : Config) (ib : Byte) : offsetOfHcrc c ib = baseLen c ib + parsedRpathLen ib := by
  simp only [offsetOfHcrc, offsetOfDlen, offsetAfterTid, baseLen]
  omega

/-- A parse that succeeds passed every check and extracts R99's fields. -/
theorem prs_ok_iff (c : Config) (pcrc : Bool) (b : List Byte) (r : Parsed) :
    prs c pcrc b = .ok r ↔ prsCheck c pcrc b = none ∧ prsFields c b = r := by
  unfold prs
  cases prsCheck c pcrc b <;> simp

/-- A parse that fails found a check that holds. -/
theorem prs_error_iff (c : Config) (pcrc : Bool) (b : List Byte) (e : ParseFail) :
    prs c pcrc b = .error e ↔ prsCheck c pcrc b = some e := by
  unfold prs
  cases prsCheck c pcrc b <;> simp

/-- What passing the checks of R100 says about the buffer's length. -/
theorem length_of_prsCheck {c : Config} {pcrc : Bool} {b : List Byte} (h : prsCheck c pcrc b = none) :
    3 ≤ b.length ∧ offsetOfHcrc c (byteAt b 2) + 1 ≤ b.length ∧
      (parsedDlen c b ≠ 0 → offsetOfHcrc c (byteAt b 2) + 1 + (parsedDlen c b).toNat + 1 ≤ b.length) := by
  simp only [prsCheck] at h
  split at h
  · cases h
  split at h
  · cases h
  split at h
  · cases h
  split at h
  · cases h
  split at h
  · cases h
  rename_i h1 _ h3 h4 h5
  simp only [Bool.or_eq_true, decide_eq_true_eq, not_or, Bool.and_eq_true, not_and, bne_iff_ne, ne_eq] at h1 h4 h5
  refine ⟨by omega, ?_, fun hd => ?_⟩
  · rw [offsetOfHcrc_eq]
    unfold parsedRpathLen
    cases hc : isCmd (byteAt b 2)
    · simp only [Bool.false_eq_true, if_false]
      omega
    · have := h4 hc
      simp only [if_true]
      omega
  · have := h5 hd
    simp only [prsFields] at this
    omega

/-- A parsed payload is as long as its data length says. -/
theorem payload_length {c : Config} {pcrc : Bool} {b : List Byte} {r : Parsed} (h : prs c pcrc b = .ok r) :
    r.payload.length = r.dlen.toNat := by
  obtain ⟨h1, rfl⟩ := (prs_ok_iff ..).mp h
  have h2 := (length_of_prsCheck h1).2.2
  simp only [prsFields, slice, List.length_take, List.length_drop]
  by_cases hd : parsedDlen c b = 0
  · simp [hd]
  · have := h2 hd
    omega

end Sys2Proof.Machine
end

