-- ==== Sys2Proof/Tests/Slice0.lean ====
section
/-! SUPPORT. The model's own tests: ill-formed configurations and words refused, a word written out from the spec for every
command, single steps with the results spec/95_test_vectors.md gives (its section stands in each docstring), and for every
statement with hypotheses a state and operands that meet them. -/

namespace Sys2Proof.Tests

open Sys2Proof.Machine

/-! ### Ill-formed configurations and words (R7, R8, R48, R65) -/

theorem test_cfgT_wf : Config.cfgT.wf = true := by decide
theorem test_refuses_nTx : { Config.cfgT with nTx := 65536 }.txRingOk = false := by decide
theorem test_refuses_nRx : { Config.cfgT with nRx := 0 }.rxRingOk = false := by decide
theorem test_refuses_slots : { Config.cfgT with cSlots := 3 }.slotsOk = false := by decide
theorem test_refuses_path : { Config.cfgT with maxPathLen := 256 }.pathOk = false := by decide
theorem test_refuses_hdrBuf : { Config.cfgT with txHdrBuf := 14 }.hdrBufOk = false := by decide
theorem test_refuses_dataBuf : { Config.cfgT with txDataBuf := 16777216 }.dataBufOk = false := by decide
theorem test_refuses_rxBuf : { Config.cfgT with rxBuf := 0 }.rxBufOk = false := by decide
theorem test_refuses_base : { Config.cfgT with mmioBase := 0x80 }.baseOk = false := by decide
theorem test_refuses_mapped : { Config.cfgT with mapped := [⟨0xFFFFFFFF, 2⟩] }.mappedOk = false := by decide
theorem test_refuses_window : { Config.cfgT with mapped := [⟨0, 0xFFFFFF01⟩] }.windowOk = false := by decide

/-- A configuration that breaks one check is refused, whichever it is. -/
theorem test_configure_refuses :
    configure { Config.cfgT with nTx := 65536 } = .refused .badConfig ∧
    configure { Config.cfgT with cSlots := 3 } = .refused .badConfig ∧
    configure { Config.cfgT with txHdrBuf := 14 } = .refused .badConfig ∧
    configure { Config.cfgT with mapped := [⟨0, 0xFFFFFF01⟩] } = .refused .badConfig ∧
    configure Config.cfgT = .next State.reset :=
  ⟨rfl, rfl, rfl, rfl, rfl⟩

/-- Words that are no command: unassigned opcodes and one set bit just above each format's fields. -/
theorem test_ill_formed_words :
    ([0x00000000#32, 0x02000000#32, 0x1C000000#32, 0x2F000000#32, 0x49000000#32, 0xFF000000#32] ++
      [0x01000001#32, 0x11000100#32, 0x14000010#32, 0x16010000#32, 0x1B001000#32, 0x32010000#32] ++
      [0x36040000#32, 0x37000004#32, 0x42020000#32, 0x40000002#32]).all
      (fun w => !wellFormedWord w && (decode w).toOption.isNone) = true := by decide

/-! ### Every command's word, written out from R62, R63 and R64 -/

/-- Words of the CRC unit and the builders. -/
def wordsA : List (Word × Instr) :=
  [(0x01000000, .crc8), (0x10000000, .pktClear), (0x110000FE, .pktSetDst 0xFE), (0x12000020, .pktSetSrc 0x20),
   (0x130000A5, .pktSetKey 0xA5), (0x14000003, .pktSetCmd 3), (0x15000000, .pktSetReply),
   (0x16001234, .pktSetTid 0x1234), (0x17000000, .pktSetAddr), (0x18000000, .pktSetDlen),
   (0x19000002, .pktSetPath 2), (0x1A000004, .pktSetRpath 4), (0x1B00001B, .pktGet 11 1)]

/-- Words of the rest of the codec and of the transport. -/
def wordsB : List (Word × Instr) :=
  [(0x20000000, .hdrSize), (0x21000000, .serialize), (0x22000000, .parse), (0x30000000, .txInit),
   (0x31000000, .rxInit), (0x3200020F, .txEnqueue 15 2), (0x33000000, .rxPoll), (0x34000000, .rxFetch),
   (0x35000000, .rxDrop), (0x36010001, .descRead 1 .rx false), (0x36020000, .descRead 0 .tx true)]

/-- Words of the rest. -/
def wordsC : List (Word × Instr) :=
  [(0x37000002, .ringStat .tx true), (0x37000001, .ringStat .rx false), (0x40000001, .tlGrab true),
   (0x4100FFFF, .tlRelease 0xFFFF), (0x42010000, .tlQuery 0 true), (0x43000000, .tlReset),
   (0x44000000, .linkLoad), (0x45000000, .submitWrite), (0x46000000, .submitRead), (0x47000000, .drain),
   (0x48000000, .pendingCount)]

/-- Every command with a word of it. -/
def words : List (Word × Instr) := wordsA ++ wordsB ++ wordsC

theorem test_words_decode : words.all (fun p => (decode p.1).toOption == some p.2) = true := by decide
theorem test_words_encode : words.all (fun p => encode p.2 == p.1) = true := by decide

/-- The host's two readings of a table word. -/
theorem test_decodeTableWord : decodeTableWord 32 0x3200020F = some (.txEnqueue 15 2) ∧ decodeTableWord 32 0x01000001 = none := by
  decide

/-- The very next step of `withFetchWord` runs the placed word. -/
theorem test_withFetchWord :
    step (State.reset.withFetchWord 32 0x16001234) =
      exec (.pktSetTid 0x1234) { State.reset with lcmd := 0x16001234, status := ⟨.ok, true, false, false⟩ } := rfl

/-! ### Small states and single steps -/

/-- The next state of an outcome, or `s` where there is none. -/
def after (o : Host.Outcome State Fault Refusal) (s : State) : State :=
  match o with
  | .next t => t
  | .fault _ => s
  | .refused _ => s

/-- A command's next state, with its operands latched. -/
def run (i : Instr) (a0 a1 a2 : Word) (s : State) : State :=
  after (Command.run ⟨i, a0, a1, a2⟩ s) s

/-- What a command leaves in CODE and RESULT. -/
def ends (i : Instr) (a0 a1 a2 : Word) (s : State) : Code × Word :=
  ((run i a0 a1 a2 s).status.code, (run i a0 a1 a2 s).result)

/-- The reset state with bytes in local memory. -/
def withMem (a : Nat) (b : List Byte) : State := State.reset.memWrite a b

/-- The reset state with a packet in PKT. -/
def withPkt (p : Pkt) : State := { State.reset with pkt := p }

/-- The packet of spec/95_test_vectors.md section 4. -/
def examplePkt : Pkt :=
  { Pkt.reset Config.cfgT with dst := 0xFE, src := 0x20, instr := 0x4C, addr := 0x1000, dlen := 4 }

/-- Its header. -/
def exampleHeader : List Byte :=
  [0xFE, 0x01, 0x4C, 0x00, 0x20, 0x00, 0x00, 0x00, 0x00, 0x00, 0x10, 0x00, 0x00, 0x00, 0x04]

/-- The write command of section 4's parse vectors, with its CRCs and data. -/
def exampleWrite : List Byte :=
  [0xFE, 0x01, 0x6C, 0x00, 0x20, 0x00, 0x00, 0x00, 0x00, 0x00, 0x20, 0x00, 0x00, 0x00, 0x02, 0x31, 0xAB, 0xCD, 0xD7]

/-- The read reply of W6. -/
def exampleReply : List Byte :=
  [0x00, 0x01, 0x0C, 0x00, 0x00, 0x00, 0x00, 0x00, 0x00, 0x04, 0xB1, 0xDE, 0xAD, 0xBE, 0xEF, 0x48]

/-- After RX_INIT. -/
def armed : State := run .rxInit 0 0 0 State.reset

/-- After RX_INIT and a LINK_RX step with `p`. -/
def received (p : List Byte) : State := after (linkRxStep { armed with rxWire := [p] }) armed

/-- After `n` TX_ENQUEUEs of a 15-byte header and no data. -/
def enqueued : Nat → State
  | 0 => State.reset
  | n + 1 => run (.txEnqueue 15 0) 0x300 0 0 (enqueued n)

/-- With slot 0 taken, its destination 0x800. -/
def grabbed : State := run (.tlGrab true) 0x800 0 0 State.reset

/-- A reply for slot 0 received, the slot table that of `t`, a drain under way. -/
def draining (p : List Byte) (t : State) : State :=
  { received p with slots := t.slots, pend := t.pend, drainMode := .drain, status := ⟨.ok, true, false, false⟩ }

/-- The same with a link that always has another packet ready. -/
def unending (s : State) : State := { s with again := [.arrive exampleReply, .linkRx, .core] }

/-- A command word accepted, CORE's turn next. -/
def accepted (w : Word) (s : State) : State :=
  { s with lcmd := w, status := ⟨.ok, true, false, false⟩, sched := [.core] }

theorem test_reset_memory_wf : Memory.wf State.reset.lmem := by decide

/-! ### CRC8 (section 2) -/

theorem test_crc8_vectors :
    crc8 [] = 0x00 ∧ crc8 [0x01] = 0x91 ∧ crc8 [0xFF] = 0xCF ∧ crc8 [0x01, 0x02] = 0x8E ∧
    crc8 [0xDE, 0xAD, 0xBE, 0xEF] = 0x48 ∧ crc8 exampleHeader = 0xC6 := by decide

theorem test_crc8 :
    ends .crc8 0x100 1 0 (withMem 0x100 [0x01]) = (.ok, 0x91) ∧
    ends .crc8 0xFFFFFFFF 1 0 State.reset = (.eBus, 0) ∧ ends .crc8 0xFFFFFFFF 0 0 State.reset = (.ok, 0) := by decide

/-! ### Packet builders (section 3) -/

theorem test_pktSetDst : (run (.pktSetDst 0xFE) 0 0 0 State.reset).pkt.dst = 0xFE := by decide
theorem test_pktSetSrc : (run (.pktSetSrc 0x20) 0 0 0 State.reset).pkt.src = 0x20 := by decide
theorem test_pktSetKey : (run (.pktSetKey 0xA5) 0 0 0 State.reset).pkt.key = 0xA5 := by decide
theorem test_pktSetTid : (run (.pktSetTid 0x1234) 0 0 0 State.reset).pkt.tid = 0x1234 := by decide
theorem test_pktSetAddr : (run .pktSetAddr 0x40000000 0 0 State.reset).pkt.addr = 0x40000000 := by decide

theorem test_pktSetCmd :
    (run (.pktSetCmd 0x3) 0 0 0 State.reset).pkt.instr = 0x4C ∧
    (run (.pktSetCmd 0xB) 0 0 0 (withPkt { examplePkt with instr := 0x0D })).pkt.instr = 0x6D := by decide

theorem test_pktSetCmd_illegal :
    ([0x0, 0x1, 0x4, 0x5, 0x6] : List (BitVec 4)).all
      (fun c => ends (.pktSetCmd c) 0 0 0 State.reset == (.eInval, 0)) = true := by decide

theorem test_pktSetReply : (run .pktSetReply 0 0 0 (withPkt examplePkt)).pkt.instr = 0x0C := by decide

theorem test_pktSetDlen :
    (run .pktSetDlen 0x00FFFFFF 0 0 State.reset).pkt.dlen = 0xFFFFFF ∧
    ends .pktSetDlen 0x01000000 0 0 State.reset = (.eInval, 0) := by decide

theorem test_pktSetPath :
    (run (.pktSetPath 2) 0x200 0 0 (withMem 0x200 [0x03, 0x05])).pkt.path.take 3 = [0x03, 0x05, 0x00] ∧
    (run (.pktSetPath 2) 0x200 0 0 (withMem 0x200 [0x03, 0x05])).pkt.pathLen = 2 := by decide

theorem test_pktSetPath_errors :
    ends (.pktSetPath 15) 0x200 0 0 State.reset = (.ok, 0) ∧ ends (.pktSetPath 16) 0x200 0 0 State.reset = (.eInval, 0) ∧
    ends (.pktSetPath 1) 0xFFFFFFFF 0 0 State.reset = (.eBus, 0) := by decide

theorem test_pktSetRpath :
    (run (.pktSetRpath 4) 0x210 0 0 (withPkt examplePkt)).pkt.instr = 0x4D ∧
    (run (.pktSetRpath 12) 0x210 0 0 (withPkt examplePkt)).pkt.instr = 0x4F := by decide

theorem test_pktSetRpath_errors :
    ends (.pktSetRpath 6) 0x210 0 0 State.reset = (.eInval, 0) ∧
    ends (.pktSetRpath 16) 0x210 0 0 State.reset = (.eInval, 0) := by decide

theorem test_pktGet :
    ends (.pktGet 4 0) 0 0 0 (withPkt { examplePkt with tid := 0x1234 }) = (.ok, 0x1234) ∧
    ends (.pktGet 13 0) 0 0 0 State.reset = (.eInval, 0) ∧ ends (.pktGet 11 0) 0 0 0 State.reset = (.eInval, 0) := by decide

theorem test_pktClear : (run .pktClear 0 0 0 (withPkt examplePkt)).pkt = Pkt.reset Config.cfgT := by decide

/-! ### Header size, serialize, parse (section 4; W3) -/

theorem test_hdrSize :
    ends .hdrSize 0 0 0 (withPkt examplePkt) = (.ok, 15) ∧ ends .hdrSize 0 0 0 State.reset = (.eInval, 0) := by decide

theorem test_serialize :
    ends .serialize 0x300 0 0 (withPkt examplePkt) = (.ok, 15) ∧
    (run .serialize 0x300 0 0 (withPkt examplePkt)).memRead 0x300 16 = exampleHeader ++ [0x00] ∧
    ends .serialize 0xFFFFFFF8 0 0 (withPkt examplePkt) = (.eBus, 0) := by decide

/-- W3: the data-length field under both values of DLEN_OMIT, and a reply's reserved byte. -/
theorem test_ser_shapes :
    ser Config.cfgT { examplePkt with instr := 0x2C } = [0xFE, 0x01, 0x2C, 0x00, 0x20, 0x00, 0x00] ∧
    ser { Config.cfgT with dlenOmit := .writeCmdNoReply } { examplePkt with instr := 0x60, dlen := 2 } =
      [0xFE, 0x01, 0x60, 0x00, 0x20, 0x00, 0x00, 0x00, 0x00, 0x00, 0x10, 0x00] ∧
    ser { Config.cfgT with replyRsvd := true } { examplePkt with instr := 0x0C } =
      [0xFE, 0x01, 0x0C, 0x00, 0x20, 0x00, 0x00, 0x00, 0x00, 0x00, 0x04] := by decide

theorem test_parse :
    ends .parse 0x300 19 0x400 (withMem 0x300 exampleWrite) = (.ok, 19) ∧
    (run .parse 0x300 19 0x400 (withMem 0x300 exampleWrite)).memRead 0x400 2 = [0xAB, 0xCD] ∧
    (run .parse 0x300 19 0x400 (withMem 0x300 exampleWrite)).pkt.hcrc = 0x31 := by decide

/-- Section 4: a long buffer is accepted with a warning; the checks 1 to 5 in turn. -/
theorem test_parse_warns_and_fails :
    (run .parse 0x300 20 0x400 (withMem 0x300 (exampleWrite ++ [0x99]))).status.warnLong = true ∧
    ends .parse 0x300 2 0x400 (withMem 0x300 exampleWrite) = (.eParse, 0) ∧
    ends .parse 0x300 18 0x400 (withMem 0x300 exampleWrite) = (.eParse, 0) ∧
    ends .parse 0x300 19 0xFFFFFFFE (withMem 0x300 exampleWrite) = (.eBus, 0) := by decide

/-! ### Transport (section 5) -/

theorem test_descRead :
    ends (.descRead 1 .tx false) 0 0 0 State.reset = (.ok, 2) ∧ ends (.descRead 2 .tx false) 0 0 0 State.reset = (.eInval, 0) := by
  decide

theorem test_ringStat :
    ends (.ringStat .tx false) 0 0 0 State.reset = (.ok, 2) ∧
    ends (.ringStat .rx true) 0 0 0 State.reset = (.ok, 0xFFFF) ∧
    ends (.ringStat .rx false) 0 0 0 armed = (.ok, 0x20000) := by decide

theorem test_rxInit : ends (.descRead 1 .rx false) 0 0 0 armed = (.ok, 3) := by decide

theorem test_txInit : (run .txInit 0 0 0 (enqueued 2)).tx.free = [0, 1] := by decide

theorem test_txEnqueue :
    ends (.descRead 0 .tx false) 0 0 0 (run (.txEnqueue 15 0) 0x300 0 0 { State.reset with ctrl := Ctrl.ofWord 1 }) =
      (.ok, 0x000F000D) ∧
    (enqueued 2).txBytes = 30 ∧ (enqueued 3).status.code = .eNodesc := by decide

theorem test_txEnqueue_errors :
    ends (.txEnqueue 0 0) 0x300 0 0 State.reset = (.eInval, 0) ∧ ends (.txEnqueue 15 16) 0x300 0 0 State.reset = (.eInval, 0) ∧
    ends (.txEnqueue 65 0) 0x300 0 0 State.reset = (.eToobig, 0) ∧
    ends (.txEnqueue 15 0) 0x300 0 257 State.reset = (.eToobig, 0) ∧
    ends (.txEnqueue 15 0) 0x300 0xFFFFFFFF 1 State.reset = (.eBus, 0) ∧
    ends (.txEnqueue 15 0) 0x300 0xFFFFFFFF 0 State.reset = (.ok, 0) := by decide

set_option maxRecDepth 4000 in
/-- Section 5: the packet LINK_TX sends, and TXI. -/
theorem test_linkTx :
    (linkTxStep (run (.txEnqueue 15 0) 0x300 0 0 { withMem 0x300 exampleHeader with ctrl := Ctrl.ofWord 1 })).txOut =
      [exampleHeader ++ [0xC6]] ∧
    (linkTxStep (run (.txEnqueue 15 0) 0x300 0 0 { withMem 0x300 exampleHeader with ctrl := Ctrl.ofWord 1 })).irqLine =
      true := by decide

theorem test_rxPoll :
    ends .rxPoll 0 0 0 (received (List.replicate 12 1)) = (.ok, 12) ∧ ends .rxPoll 0 0 0 armed = (.none, 0) ∧
    ends .rxPoll 0 0 0 (received []) = (.ok, 0) := by decide

theorem test_rxFetch :
    ends .rxFetch 0xFFFFFFF8 0 0 (received (List.replicate 12 1)) = (.eBus, 0) ∧
    (run .rxFetch 0x500 0 0 (received (List.replicate 12 1))).memRead 0x500 12 = List.replicate 12 1 ∧
    (run .rxFetch 0x500 0 0 (received (List.replicate 12 1))).rxBytes = 12 := by decide

theorem test_rxDrop :
    ends .rxDrop 0 0 0 (received (List.replicate 12 1)) = (.ok, 12) ∧
    (run .rxDrop 0 0 0 (received (List.replicate 12 1))).rx.busy = [1, 0] ∧
    (run .rxDrop 0 0 0 (received (List.replicate 12 1))).rxBytes = 0 := by decide

set_option maxRecDepth 4000 in
/-- Section 5, truncation. -/
theorem test_linkRx_truncates :
    (received (List.replicate 257 1)).rx.at 0 = ⟨false, false, false, true, 256⟩ := by decide

/-! ### Transaction log (section 6; W5, W6, W7) -/

theorem test_tlGrab :
    ends (.tlGrab true) 0x600 0 0 grabbed = (.ok, 1) ∧
    ends (.tlGrab true) 0x600 0 0 (run (.tlGrab true) 0x600 0 0 grabbed) = (.eExhausted, 1) := by decide

theorem test_tlQuery :
    ends (.tlQuery 0 false) 0 0 0 grabbed = (.ok, 3) ∧ ends (.tlQuery 0 true) 0 0 0 grabbed = (.ok, 0x800) ∧
    ends (.tlQuery 2 false) 0 0 0 grabbed = (.eInval, 0) := by decide

theorem test_tlRelease :
    (run (.tlRelease 0) 0 0 0 grabbed).pend = 0 ∧ (run (.tlRelease 0xFFFF) 0 0 0 grabbed).slots = grabbed.slots := by decide

theorem test_tlReset : (run .tlReset 0 0 0 (run (.tlGrab true) 0x600 0 0 grabbed)).pend = 0 := by decide

theorem test_linkLoad : (run .linkLoad 0 0 0 (withPkt examplePkt)).link.dst = 0xFE := by decide

/-- R140's example: the header bytes SUBMIT_WRITE queues. -/
theorem test_submitWrite :
    ends .submitWrite 0x2000 0x700 2 State.reset = (.ok, 0) ∧
    (run .submitWrite 0x2000 0x700 2 State.reset).tx.hdrBytes 0 15 =
      [0x00, 0x01, 0x6C, 0x00, 0x00, 0x00, 0x00, 0x00, 0x00, 0x00, 0x20, 0x00, 0x00, 0x00, 0x02] := by decide

set_option maxRecDepth 4000 in
/-- R141's example: the slot a SUBMIT_READ takes, and the E_TOOBIG of a read whose reply does not fit. -/
theorem test_submitRead :
    (run .submitRead 0x1000 0x800 4 State.reset).slots = [⟨true, true, 0x800⟩, Slot.idle] ∧
    ends .submitRead 0x1000 0x800 244 State.reset = (.ok, 0) ∧
    ends .submitRead 0x1000 0x800 245 State.reset = (.eToobig, 0) := by decide

theorem test_drain : (run .drain 0 0 0 armed).drainMode = .drain ∧ (drainStep (run .drain 0 0 0 armed)).result = 0 := by
  decide

theorem test_pendingCount : (drainStep (run .pendingCount 0 0 0 grabbed)).result = 1 := by decide

/-- W6: the payload is written and the slot released. -/
theorem test_drainStep :
    (drainStep (draining exampleReply grabbed)).memRead 0x800 4 = [0xDE, 0xAD, 0xBE, 0xEF] ∧
    (drainStep (draining exampleReply grabbed)).pend = 0 := by decide

/-- W7: with no slot in use the same reply is unmatched and writes nothing. -/
theorem test_drainStep_unmatched :
    (drainStep (draining exampleReply State.reset)).unmatched = 1 ∧
    (drainStep (draining exampleReply State.reset)).lmem = [] := by decide

/-! ### Host and reset -/

/-- R19: STATUS at offset 4; R23: writing 1 clears. -/
theorem test_host_registers :
    (after (hostStep (.readReg 0xFFFFFF04 .w32) (accepted 0 State.reset)) State.reset).hostRegs = [0x100] ∧
    (after (hostStep (.writeReg 0xFFFFFF1C .w32 1) { State.reset with irq := ⟨true, true⟩ }) State.reset).irq =
      ⟨false, true⟩ := by decide

theorem test_cap_words :
    capWord0 Config.cfgT = 0x00020002 ∧ capWord1 Config.cfgT = 0x400F0002 ∧ capWord2 Config.cfgT = 0x00000100 ∧
    capWord3 Config.cfgT = 0x00000100 := by decide

theorem test_reset_event : resetEvent (enqueued 2) = State.reset := by decide

/-! ### Witnesses: states and operands that meet each statement's hypotheses -/

/-- The invariant of a state, from finitely many checks. -/
abbrev invChecks (s : State) : Prop :=
  s.cfg.wf = true ∧ Memory.wf s.lmem ∧ (∀ x ∈ s.lmem, x.1 < 2 ^ 32 ∧ isMapped s.cfg x.1 = true) ∧
  (s.pkt.path.length = s.cfg.maxPathLen ∧ s.pkt.pathLen.toNat ≤ s.cfg.maxPathLen ∧ s.pkt.rpath.length = 12 ∧
    s.pkt.rpathLen.toNat ∈ [0, 4, 8, 12] ∧ isReservedIb s.pkt.instr = false) ∧
  (s.link.path.length = s.cfg.maxPathLen ∧ s.link.pathLen.toNat ≤ s.cfg.maxPathLen ∧ s.link.rpath.length = 12 ∧
    s.link.rpathLen.toNat ∈ [0, 4, 8, 12]) ∧
  (s.tx.desc.length = s.cfg.nTx ∧ s.tx.hdr.length = s.cfg.nTx ∧ s.tx.data.length = s.cfg.nTx ∧
    (∀ i, i < s.cfg.nTx → (s.tx.at i).wr = (i + 1 == s.cfg.nTx)) ∧
    (∀ b ∈ s.tx.hdr, b.length ≤ s.cfg.txHdrBuf) ∧ ∀ b ∈ s.tx.data, b.length ≤ s.cfg.txDataBuf) ∧
  (∀ i, i < s.cfg.nTx → (s.tx.at i).en = true → (s.tx.at i).ncl.toNat ≤ (s.tx.at i).hlen.toNat ∧
    (s.tx.at i).hlen.toNat ≤ (s.tx.hdr.getD i []).length ∧ (s.tx.at i).dlen.toNat ≤ (s.tx.data.getD i []).length) ∧
  (s.rx.desc.length = s.cfg.nRx ∧ s.rx.buf.length = s.cfg.nRx ∧
    (∀ i, i < s.cfg.nRx → (s.rx.at i).wr = (i + 1 == s.cfg.nRx)) ∧ (s.rx.busy = [] ∨ s.rx.free = []) ∧
    (∀ i, i < s.cfg.nRx → (s.rx.at i).size.toNat ≤ (s.rx.buf.getD i []).length) ∧
    ∀ b ∈ s.rx.buf, b.length ≤ s.cfg.rxBuf) ∧
  (s.slots.length = s.cfg.cSlots ∧ s.pend.toNat = s.usedSlots ∧ ∀ e ∈ s.slots, e.used = false → e = Slot.idle) ∧
  (s.drainMode = .none ∨ s.status.busy = true)

/-- The ring order of a ring, as finitely many checks, the rotation's start given. -/
abbrev orderChecks (n h : Nat) (en : Nat → Bool) (busy free : List Nat) (lptr : Nat) : Prop :=
  h < n ∧ busy ++ free = rotation n h ∧ busy.Pairwise (fun i j => en i = true → en j = true) ∧
    (∀ i ∈ free, en i = false) ∧ pointerOf en busy free = some lptr

theorem inv_of_checks {s : State} (a b : Nat) (h : invChecks s)
    (ht : orderChecks s.cfg.nTx a (fun i => (s.tx.at i).en) s.tx.busy s.tx.free s.tx.lptr.toNat)
    (hr : orderChecks s.cfg.nRx b (fun i => (s.rx.at i).en) s.rx.busy s.rx.free s.rx.lptr.toNat) : Inv s := by
  obtain ⟨h1, h2, h3, ⟨p1, p2, p3, p4, p5⟩, ⟨l1, l2, l3, l4⟩, ⟨t1, t2, t3, t4, t5, t6⟩, t7, ⟨r1, r2, r3, r4, r5, r6⟩,
    ⟨q1, q2, q3⟩, hd⟩ := h
  obtain ⟨o1, o2, o3, o4, o5⟩ := ht
  obtain ⟨u1, u2, u3, u4, u5⟩ := hr
  have hout : ∀ i, ¬ i < s.cfg.nTx → (s.tx.at i).en = false := fun i hi => by
    simp [TxRing.at, List.getD_eq_getElem?_getD, List.getElem?_eq_none (t1 ▸ Nat.not_lt.mp hi), TxDesc.reset]
  have hrout : ∀ i, ¬ i < s.cfg.nRx → (s.rx.at i).size = 0 := fun i hi => by
    simp [RxRing.at, List.getD_eq_getElem?_getD, List.getElem?_eq_none (r1 ▸ Nat.not_lt.mp hi), RxDesc.reset]
  refine ⟨h1, ⟨h2, h3⟩, ⟨⟨p1, p2, p3, p4⟩, p5⟩, ⟨l1, l2, l3, l4⟩,
    ⟨t1, t2, t3, t4, ⟨⟨a, o1, o2⟩, o3, o4, o5⟩, fun i hi => ?_, t5, t6⟩,
    ⟨r1, r2, r3, ⟨⟨b, u1, u2⟩, u3, u4, u5⟩, r4, fun i => ?_, r6⟩, ⟨q1, q2, q3⟩, fun hn => hd.resolve_left hn⟩
  · by_cases hlt : i < s.cfg.nTx
    · exact t7 i hlt hi
    · exact absurd hi (by simp [hout i hlt])
  · by_cases hlt : i < s.cfg.nRx
    · exact r5 i hlt
    · simp [hrout i hlt]

theorem witness_inv_reset : Inv State.reset := inv_of_checks 0 0 (by decide) (by decide) (by decide)
theorem witness_inv_enqueued : Inv (enqueued 2) := inv_of_checks 0 0 (by decide) (by decide) (by decide)
theorem witness_inv_armed : Inv armed := inv_of_checks 0 0 (by decide) (by decide) (by decide)
theorem witness_inv_received : Inv (received exampleReply) := inv_of_checks 0 0 (by decide) (by decide) (by decide)
theorem witness_inv_draining : Inv (draining exampleReply grabbed) := inv_of_checks 0 0 (by decide) (by decide) (by decide)

/-- RunsAs and RejectsReserved, at the least immediate that is rejected. -/
theorem witness_command_word :
    (accepted 0x110000FF State.reset).status.busy = true ∧ (accepted 0x110000FF State.reset).drainMode = .none ∧
    (accepted (commandWord 0x11 0x100) State.reset).lcmd = commandWord 0x11 0x100 ∧ 2 ^ 8 ≤ (0x100 : BitVec 24).toNat ∧
    2 ^ 0 ≤ (1 : BitVec 24).toNat := by decide

theorem witness_EncodeOfDecode : decode 0x110000FE#32 = .ok (.pktSetDst 0xFE) := rfl

theorem witness_DecodingIsTotal :
    (accepted 0x0200FFFF State.reset).status.busy = true ∧ (accepted 0x0200FFFF State.reset).drainMode = .none ∧
    opcodeMap.lookup (opcodeOf (accepted 0x0200FFFF State.reset).lcmd).toNat = none ∧
    opcodeMap.lookup (opcodeOf 0x3201FFFF#32).toNat = some .t ∧ 0x3201FFFF#32 &&& Format.t.reserved ≠ 0 ∧
    0x3200FFFF#32 &&& Format.t.reserved = 0 := by decide

theorem witness_StepRunsLatchedCommand :
    (accepted 0x22000000 State.reset).status.busy = true ∧ (accepted 0x22000000 State.reset).sched = [.core] ∧
    (accepted 0x22000000 State.reset).drainMode = .none ∧
    decode (accepted 0x22000000 State.reset).lcmd = .ok .parse ∧
    (draining exampleReply grabbed).status.busy = true ∧ (draining exampleReply grabbed).drainMode ≠ .none ∧
    (draining exampleReply grabbed).sched = [] ∧ (draining exampleReply grabbed).again = [] ∧
    State.reset.status.busy = false ∧ (unending (draining exampleReply grabbed)).sched = [] ∧
    (unending (draining exampleReply grabbed)).again = .arrive exampleReply :: [.linkRx, .core] :=
  ⟨rfl, rfl, rfl, rfl, rfl, by decide, rfl, rfl, rfl, rfl, rfl⟩

theorem witness_Crc8Command :
    rangeOK Config.cfgT 0xFFFFFEFF 1 = true ∧ rangeOK Config.cfgT 0xFFFFFEFF 2 = false ∧
    rangeOK Config.cfgT 0xFFFFFFFF 0 = true := by decide

theorem witness_MemoryReadAfterWrite :
    Memory.wf [(5, 1)] ∧ (4 < 5 ∨ 5 + [2, 3].length ≤ 4) ∧ (7 < 5 ∨ 5 + [2, 3].length ≤ 7) := by decide

theorem witness_RangeOkExactly :
    Config.cfgT.wf = true ∧ rangeOK Config.cfgT 0xFFFFFEF0 16 = true ∧ 0xFFFFFEF0 ≤ 0xFFFFFEFF ∧
    0xFFFFFEFF < 0xFFFFFEF0 + 16 := by decide

theorem witness_HostRegisterAccess :
    (252 < 256 ∧ 252 % 4 = 0 ∧ 0x4C ≤ 252 ∧ 0x3C ≤ 252) ∧ (255 < 256 ∧ 255 % 4 ≠ 0) ∧ AccessWidth.w8 ≠ .w32 := by decide

theorem witness_CommandPort :
    State.reset.status.busy = false ∧ (accepted 0 State.reset).status.busy = true := by decide

theorem witness_EveryCommandCompletes : Instr.parse ≠ .drain ∧ Instr.parse ≠ .pendingCount := by decide

/-- Every error kind: one that changes STATUS only, and E_NODESC of each of the three commands. -/
theorem witness_ErrorsChangeOnlyStatus :
    State.reset.drainMode = .none ∧ (run .hdrSize 0 0 0 State.reset).status.code = .eInval ∧
    (run (.txEnqueue 15 0) 0x300 0 0 (enqueued 2)).status.code = .eNodesc ∧
    (run .submitWrite 0x2000 0x700 2 (enqueued 2)).status.code = .eNodesc ∧
    (run .submitRead 0x1000 0x800 4 (enqueued 2)).status.code = .eNodesc := by decide

theorem witness_CompletionCodes :
    exec .rxPoll State.reset = .next (run .rxPoll 0 0 0 State.reset) ∧
    (draining exampleReply grabbed).status.busy = true ∧
    (drainStep { armed with drainMode := .drain, status := ⟨.ok, true, false, false⟩ }).status.busy = false :=
  ⟨rfl, rfl, rfl⟩

/-- TXI set by LINK_TX at a descriptor with IE, cleared by the host; RXI likewise kept by another's turn. -/
theorem witness_InterruptSources :
    (linkTxStep (run (.txEnqueue 15 0) 0x300 0 0 { State.reset with ctrl := Ctrl.ofWord 3 })).irq.txi = true ∧
    (received exampleReply).irq.rxi = false ∧
    (after (linkRxStep { run .rxInit 0 0 0 { State.reset with ctrl := Ctrl.ofWord 2 } with rxWire := [[1]] })
      State.reset).irq.rxi = true ∧
    (after (takeTurn (.host (.writeReg (0xFFFFFF00 + 0x1C) .w32 3)) { State.reset with irq := ⟨true, true⟩ })
      State.reset).irq = ⟨false, false⟩ := by decide

theorem witness_WhoChangesWhat :
    takeTurn (.host (.readMem 0 1)) State.reset = .next { State.reset with hostMem := [[0]] } ∧
    takeTurn .linkTx (enqueued 1) = .next (linkTxStep (enqueued 1)) ∧
    takeTurn .linkRx { armed with rxWire := [exampleReply] } = .next (received exampleReply) := ⟨rfl, rfl, rfl⟩

theorem witness_BaseLengths :
    Config.cfgT.dlenOmit = .writeReply ∧ { Config.cfgT with dlenOmit := .writeCmdNoReply }.dlenOmit = .writeCmdNoReply :=
  ⟨rfl, rfl⟩

theorem witness_SerializedBytes :
    isCmd 0x6C = true ∧ hasRsvd { Config.cfgT with replyRsvd := true } 0x0C = true ∧ omitsDlen Config.cfgT 0x6C = false := by
  decide

/-- One buffer per check of R100 (section 4's table), and one that passes them all. -/
theorem witness_ParseFunction :
    (prsCheck Config.cfgT false [0xFE, 0x01] = some .protocolId) ∧
    (prsCheck Config.cfgT false ([0xFE, 0x01, 0xCC, 0x00] ++ List.replicate 12 0) = some .instruction) ∧
    (prsCheck Config.cfgT false exampleHeader = some .short) ∧
    (prsCheck Config.cfgT false ((exampleHeader ++ [0x00]).set 2 0x4D) = some .replyPath) ∧
    (prsCheck Config.cfgT false (exampleHeader ++ [0xC6]) = some .data) ∧
    (prsCheck Config.cfgT true (exampleReply.set 15 0x49) = some .crc) ∧
    (prsCheck Config.cfgT false (exampleReply.set 15 0x49) = none) ∧ (prsCheck Config.cfgT true exampleReply = none) := by
  decide

theorem witness_CodecRoundTrip :
    isReservedIb 0x4F = false ∧ legalCode (codeOf 0x4F) = true ∧ isCmd 0x4F = true ∧
    (12 : Byte).toNat = 4 * ((0x4F : Byte).toNat % 4) ∧ omitsDlen Config.cfgT 0x4F = false ∧
    [0xAB, 0xCD].length = (2 : BitVec 24).toNat ∧ isCmd 0x2C = false ∧ omitsDlen Config.cfgT 0x2C = true := by decide

theorem witness_CodecFrame :
    unitOf .serialize = .codec ∧ unitOf .parse = .codec ∧ Memory.wf (withMem 0x300 exampleWrite).lmem ∧
    (withMem 0x300 exampleWrite).drainMode = .none ∧
    Memory.readByte (run .serialize 0x300 0 0 (withPkt examplePkt)).lmem 0x300 ≠ Memory.readByte State.reset.lmem 0x300 := by
  decide

theorem witness_PacketBuilders :
    (0x00FFFFFF : Word).toNat = (0xFFFFFF : BitVec 24).toNat ∧ 2 ^ 24 ≤ (0x01000000 : Word).toNat := by decide

theorem witness_InstructionByteBuilders :
    (0xF : BitVec 4).toNat ∈ [0x2, 0x3, 0x7, 0x8, 0x9, 0xA, 0xB, 0xC, 0xD, 0xE, 0xF] ∧
    (0x6 : BitVec 4).toNat ∈ [0x0, 0x1, 0x4, 0x5, 0x6] := by decide

theorem witness_PathBuilders :
    State.reset.cfg.maxPathLen < (16 : Byte).toNat ∧ (15 : Byte).toNat ≤ State.reset.cfg.maxPathLen ∧
    rangeOK State.reset.cfg 0xFFFFFEF1 15 = true ∧ rangeOK State.reset.cfg 0xFFFFFEF2 15 = false ∧
    12 < (13 : Byte).toNat ∧ (6 : Byte).toNat % 4 ≠ 0 ∧ (12 : Byte).toNat ∈ [0, 4, 8, 12] ∧
    rangeOK State.reset.cfg 0xFFFFFEF4 12 = true ∧ rangeOK State.reset.cfg 0xFFFFFEF5 12 = false := by decide

theorem witness_PacketGet :
    (1 : Byte).toNat < { examplePkt with pathLen := 2 }.pathLen.toNat ∧ examplePkt.pathLen.toNat ≤ (0 : Byte).toNat ∧
    (3 : Byte).toNat < { examplePkt with rpathLen := 4 }.rpathLen.toNat ∧ examplePkt.rpathLen.toNat ≤ (0 : Byte).toNat ∧
    13 ≤ (13 : BitVec 4).toNat := by decide

theorem witness_HeaderSize :
    legalCode (codeOf State.reset.pkt.instr) = false ∧ legalCode (codeOf (withPkt examplePkt).pkt.instr) = true := by decide

theorem witness_SerializeCommand :
    legalCode (codeOf examplePkt.instr) = true ∧ (ser Config.cfgT examplePkt).length = 15 ∧
    rangeOK Config.cfgT 0xFFFFFEF1 15 = true ∧ rangeOK Config.cfgT 0xFFFFFEF2 15 = false ∧ Memory.wf (withPkt examplePkt).lmem := by
  decide

/-- PARSE's four ways to end. -/
theorem witness_ParseCommand :
    rangeOK Config.cfgT 0xFFFFFEFF 2 = false ∧ rangeOK Config.cfgT 0x300 19 = true ∧
    (prs Config.cfgT false ((withMem 0x300 exampleWrite).memRead 0x300 18)).toOption = none ∧
    ((prs Config.cfgT false ((withMem 0x300 exampleWrite).memRead 0x300 19)).toOption.map fun r => r.dlen) = some 2 ∧
    rangeOK Config.cfgT 0xFFFFFEFE 2 = true ∧ Memory.wf (withMem 0x300 exampleWrite).lmem := by decide

theorem witness_LinkTransmitStep : ((enqueued 1).tx.at (enqueued 1).tx.lptr.toNat).en = true := by decide

theorem witness_LinkReceiveStep :
    RxRingOk armed ∧ armed.cfg.rxBuf < 2 ^ 24 ∧ { armed with rxWire := [exampleReply] }.rxWire = exampleReply :: [] ∧
    exampleReply.length < 2 ^ 24 ∧ (armed.rx.at armed.rx.lptr.toNat).en = true :=
  ⟨witness_inv_armed.rx, by decide, rfl, by decide, by decide⟩

theorem witness_ScanOrder :
    (Inv (enqueued 2) ∧ takeTurn .linkTx (enqueued 2) = .next (linkTxStep (enqueued 2)) ∧
      ((enqueued 2).tx.at (enqueued 2).tx.lptr.toNat).en = true) ∧
    (Inv State.reset ∧ (State.reset.tx.at State.reset.tx.lptr.toNat).en = false ∧
      (State.reset.rx.at State.reset.rx.lptr.toNat).en = false) ∧
    takeTurn .linkRx { armed with rxWire := [exampleReply] } = .next (received exampleReply) ∧
    (Inv armed ∧ (armed.rx.at armed.rx.lptr.toNat).en = true ∧ armed.rxWire = [] ∧
      takeTurn .linkRx armed = .next armed) :=
  ⟨⟨witness_inv_enqueued, rfl, by decide⟩, ⟨witness_inv_reset, by decide, by decide⟩, rfl,
    ⟨witness_inv_armed, by decide, rfl, rfl⟩⟩

theorem witness_ArenaNeverObserved : Inv (enqueued 2) ∧ ((enqueued 2).tx.at 1).en = true :=
  ⟨witness_inv_enqueued, by decide⟩

theorem witness_QueueProcedures :
    (linkTxStep (enqueued 2)).tx.busy = [0] ++ [1] ∧ (∀ i ∈ [0], ((linkTxStep (enqueued 2)).tx.at i).en = false) ∧
    ((linkTxStep (enqueued 2)).tx.at 1).en = true ∧ (received exampleReply).rx.busy = 0 :: [1] ∧
    (received exampleReply).rx.free ++ [0] = 0 :: [] := by decide

theorem witness_FillDescriptor :
    TxRingOk State.reset ∧ State.reset.tx.free = 0 :: [1] ∧ exampleHeader.length < 2 ^ 8 ∧ [0xAB].length < 2 ^ 24 :=
  ⟨witness_inv_reset.tx, rfl, by decide, by decide⟩

theorem witness_TxEnqueueCommand :
    ((15 : Byte).toNat < (16 : Byte).toNat ∧ (15 : Byte) ≠ 0 ∧ (15 : Byte).toNat ≤ (15 : Byte).toNat) ∧
    (Config.cfgT.txHdrBuf < (65 : Byte).toNat ∧ (64 : Byte).toNat ≤ Config.cfgT.txHdrBuf) ∧
    (Config.cfgT.txDataBuf < (257 : Word).toNat ∧ (256 : Word).toNat ≤ Config.cfgT.txDataBuf) ∧
    (rangeOK Config.cfgT 0xFFFFFEF2 15 = false ∧ rangeOK Config.cfgT 0xFFFFFEF1 15 = true) ∧
    (txReclaim (enqueued 2).tx).free = [] ∧ (txReclaim State.reset.tx).free ≠ [] := by decide

theorem witness_RxPollAndDrop : rxHead State.reset.rx = none ∧ rxHead (received exampleReply).rx = some 0 := by decide

theorem witness_RxFetchCommand :
    rxHead (received exampleReply).rx = some 0 ∧ ((received exampleReply).rx.at 0).size.toNat = 16 ∧
    rangeOK Config.cfgT 0xFFFFFEF1 16 = false ∧ rangeOK Config.cfgT 0xFFFFFEF0 16 = true ∧
    Memory.wf (received exampleReply).lmem := by decide

theorem witness_RingReads :
    State.reset.cfg.nTx ≤ (2 : BitVec 16).toNat ∧ (1 : BitVec 16).toNat < State.reset.cfg.nTx ∧
    State.reset.cfg.nRx ≤ (2 : BitVec 16).toNat ∧ (1 : BitVec 16).toNat < State.reset.cfg.nRx ∧ State.reset.tx.busy = [] ∧
    (enqueued 2).tx.busy.head? = some 0 ∧ (enqueued 2).tx.busy.length < 2 ^ 16 := by decide

set_option maxRecDepth 8000 in
theorem witness_RingExhaustion :
    Inv State.reset ∧ exec .txInit State.reset = .next (run .txInit 0 0 0 State.reset) ∧
    Command.validEnqueue State.reset.cfg ⟨.txEnqueue 64 64, 0xFFFFFEC0, 0xFFFFFE00, 256⟩ :=
  ⟨witness_inv_reset, rfl, 64, 64, rfl, by decide, by decide, by decide, by decide, by decide, by decide⟩

theorem witness_SlotProcedures :
    grabbed.slots.length = grabbed.cfg.cSlots ∧ (grabbed.slot 0).used = true ∧ (grabbed.slot 1).used = false ∧
    (∀ k, k < 1 → (grabbed.slot k).used = true) ∧
    (∀ j, j < 2 → ((run (.tlGrab true) 0x600 0 0 grabbed).slot j).used = true) ∧ grabbed.cfg.cSlots ≤ 2 := by decide

theorem witness_SlotCommands :
    (State.grab grabbed true 0x600).map (fun p => p.1) = some 1 ∧
    (State.grab (run (.tlGrab true) 0x600 0 0 grabbed) true 0x600).map (fun p => p.1) = none ∧
    grabbed.cfg.cSlots ≤ (2 : BitVec 16).toNat ∧ (1 : BitVec 16).toNat < grabbed.cfg.cSlots := by decide

theorem witness_SlotsOk : SlotsOk (draining exampleReply grabbed) := witness_inv_draining.slots

set_option maxRecDepth 4000 in
/-- The SUBMITs' checks at their bounds, and both ends once a slot is theirs. -/
theorem witness_SubmitCommands :
    LinkOk State.reset ∧ 2 ^ 24 ≤ (0x01000000 : Word).toNat ∧ (0x00FFFFFF : Word).toNat < 2 ^ 24 ∧
    (0 + 0 + 15 ≤ Config.cfgT.txHdrBuf ∧ { Config.cfgT with txHdrBuf := 15 }.txHdrBuf < 12 + 0 + 15) ∧
    (expectedReplyLen Config.cfgT 244 ≤ Config.cfgT.rxBuf ∧ Config.cfgT.rxBuf < expectedReplyLen Config.cfgT 245) ∧
    rangeOK Config.cfgT 0xFFFFFEFE 2 = true ∧ rangeOK Config.cfgT 0xFFFFFEFF 2 = false ∧
    ((State.reset.grab false 0).map fun p => p.1) = some 0 ∧ (txReclaim (enqueued 2).tx).free = [] ∧
    ((enqueued 2).grab true 0x800).map (fun p => p.1) = some 0 :=
  ⟨witness_inv_reset.link, by decide, by decide, by decide, by decide, by decide, by decide, by decide, by decide, by decide⟩

theorem witness_DrainStartAndEnd :
    (draining exampleReply grabbed).status.busy = true ∧ (draining exampleReply grabbed).drainMode ≠ .none ∧
    rxHead armed.rx = none ∧ { armed with drainMode := .drain }.drainMode = .drain ∧
    { armed with drainMode := .pcount }.drainMode = .pcount := by decide

set_option maxRecDepth 4000 in
/-- A packet for every case of R143: cut, malformed, a command, unmatched, matched with and without a destination, and a
destination that does not exist. -/
theorem witness_DrainStepCases :
    ((received (List.replicate 257 1)).rx.at 0).tr = true ∧
    ((prs Config.cfgT false [0x20, 0x02, 0x2C]).toOption = none) ∧
    ((prs Config.cfgT false exampleWrite).toOption.map fun r => isCmd r.ib) = some true ∧
    ((prs Config.cfgT false exampleReply).toOption.map fun r => (isCmd r.ib, r.tid, r.dlen)) = some (false, 0, 4) ∧
    ((received exampleReply).rx.bytes 0 16 = exampleReply) ∧
    (grabbed.slotMatch 0 = true ∧ grabbed.slotMatch 1 = false ∧ (grabbed.slot 0).hd = true) ∧
    ((run (.tlGrab false) 0 0 0 State.reset).slot 0).hd = false ∧
    rangeOK Config.cfgT (grabbed.slot 0).laddr.toNat 4 = true ∧
    rangeOK Config.cfgT ((run (.tlGrab true) 0xFFFFFEFD 0 0 State.reset).slot 0).laddr.toNat 4 = false ∧
    Memory.wf (draining exampleReply grabbed).lmem := by decide

theorem witness_DrainTerminates :
    Inv (draining exampleReply grabbed) ∧ (draining exampleReply grabbed).drainMode ≠ .none :=
  ⟨witness_inv_draining, by decide⟩

theorem witness_NoStaleWrite :
    Memory.wf (draining exampleReply grabbed).lmem ∧
    Memory.readByte (drainStep (draining exampleReply grabbed)).lmem 0x803 ≠
      Memory.readByte (draining exampleReply grabbed).lmem 0x803 ∧
    rxHead (draining exampleReply State.reset).rx = some 0 ∧
    ((prs Config.cfgT false ((draining exampleReply State.reset).rx.bytes 0 16)).toOption.map fun r => r.tid) = some 0 ∧
    (draining exampleReply State.reset).slotMatch 0 = false := by decide

theorem witness_SlotCapacity :
    Inv (draining exampleReply grabbed) ∧
    exec .tlReset (draining exampleReply grabbed) = .next (run .tlReset 0 0 0 (draining exampleReply grabbed)) ∧
    ([⟨.tlGrab true, 0x600, 0, 0⟩, ⟨.tlGrab false, 0, 0, 0⟩] : List Command).length = 2 :=
  ⟨witness_inv_draining, rfl, rfl⟩

theorem witness_EndToEndRead :
    Inv State.reset ∧ State.reset.status.busy = false ∧ (∀ e ∈ State.reset.slots, e.used = false) ∧
    exec .txInit State.reset = .next (run .txInit 0 0 0 State.reset) ∧
    exec .rxInit (run .txInit 0 0 0 State.reset) = .next (run .rxInit 0 0 0 (run .txInit 0 0 0 State.reset)) ∧
    15 ≤ Config.cfgT.txHdrBuf ∧ 16 ≤ Config.cfgT.rxBuf ∧ rangeOK Config.cfgT 0xFFFFFEFC 4 = true ∧
    exampleReply.length ≤ Config.cfgT.rxBuf ∧
    ((prs Config.cfgT false exampleReply).toOption.map fun r => (r.ib, r.tid, r.dlen, r.payload)) =
      some (0x0C, 0, 4, [0xDE, 0xAD, 0xBE, 0xEF]) :=
  ⟨witness_inv_reset, rfl, by decide, rfl, rfl, by decide, by decide, by decide, by decide, by decide⟩

/-- For TransmitOrder: a TX_ENQUEUE that completes, and a turn that is none. -/
theorem witness_TransmitOrder :
    Inv (accepted 0x3200000F State.reset) ∧
    step (accepted 0x3200000F State.reset) = .next (after (step (accepted 0x3200000F State.reset)) State.reset) ∧
    (accepted 0x3200000F State.reset).runsNext (.txEnqueue 15 0) ∧
    (after (step (accepted 0x3200000F State.reset)) State.reset).status.code = .ok ∧
    (nextTurn (accepted 0x3200000F State.reset)).1 ≠ .reset ∧
    ¬ (accepted 0x3200000F State.reset).runsNext .txInit ∧
    ¬ (accepted 0x33000000 State.reset).runsNext (.txEnqueue 15 0) := by
  refine ⟨inv_of_checks 0 0 (by decide) (by decide) (by decide), rfl, ⟨rfl, rfl, rfl, rfl⟩, by decide, by decide, ?_, ?_⟩
  · exact fun h => Instr.noConfusion (Except.ok.inj (show Except.ok (.txEnqueue 15 0) = Except.ok .txInit from h.2.2.2))
  · exact fun h => Instr.noConfusion (Except.ok.inj (show Except.ok .rxPoll = Except.ok (.txEnqueue 15 0) from h.2.2.2))

/-- For ReceiveOrder: an RX_FETCH that completes, a drain step with a packet ready, and a turn that is neither. -/
theorem witness_ReceiveOrder :
    Inv (accepted 0x34000000 (received exampleReply)) ∧ (accepted 0x34000000 (received exampleReply)).runsNext .rxFetch ∧
    (after (step (accepted 0x34000000 (received exampleReply))) State.reset).status.code = .ok ∧
    (draining exampleReply grabbed).drainsNext ∧ (rxHead (draining exampleReply grabbed).rx).isSome = true ∧
    ¬ (accepted 0x33000000 (received exampleReply)).runsNext .rxFetch := by
  refine ⟨inv_of_checks 0 0 (by decide) (by decide) (by decide), ⟨rfl, rfl, rfl, rfl⟩, by decide,
    ⟨rfl, rfl, by decide⟩, by decide, ?_⟩
  exact fun h => Instr.noConfusion (Except.ok.inj (show Except.ok .rxPoll = Except.ok .rxFetch from h.2.2.2))

/-- For ReceiveOrder: a packet that arrives. -/
theorem witness_ReceiveOrder_arrival :
    Inv (unending (draining exampleReply grabbed)) ∧
    (nextTurn (unending (draining exampleReply grabbed))).1 ≠ .reset ∧
    ¬ (unending (draining exampleReply grabbed)).runsNext .rxInit ∧
    (unending (draining exampleReply grabbed)).arrivesNext = [exampleReply] :=
  ⟨inv_of_checks 0 0 (by decide) (by decide) (by decide), by decide, fun h => Turn.noConfusion h.1, rfl⟩

/-- For DrainMayRunOn: a drain under way with a link that always has another packet ready. -/
theorem witness_DrainMayRunOn :
    Inv (unending (draining exampleReply grabbed)) ∧ (unending (draining exampleReply grabbed)).drainMode ≠ .none ∧
    (unending (draining exampleReply grabbed)).rx.busy ≠ [] ∧
    (∀ q ∈ exampleReply :: (unending (draining exampleReply grabbed)).rxWire, q.length < 2 ^ 24) ∧
    (unending (draining exampleReply grabbed)).sched = [] ∧
    (unending (draining exampleReply grabbed)).again = [.arrive exampleReply, .linkRx, .core] :=
  ⟨inv_of_checks 0 0 (by decide) (by decide) (by decide), by decide, by decide, by decide, rfl, rfl⟩

/-- For the invariant statements: a state that meets the invariant and takes a step that changes it. -/
theorem witness_invariant_step :
    Inv (draining exampleReply grabbed) ∧
    step (draining exampleReply grabbed) = .next (drainStep (draining exampleReply grabbed)) ∧
    (drainStep (draining exampleReply grabbed)).rx.busy = [1, 0] :=
  ⟨witness_inv_draining, rfl, by decide⟩

/-- For CapabilityAndDescriptorWords and ResetMeetsInvariant: a configuration that is not refused, and the first and the last
capability register. -/
theorem witness_CapabilityAndDescriptorWords : Config.cfgT.wf = true ∧ 0 < 4 ∧ 3 < 4 := by decide

end Sys2Proof.Tests
end

section
/-! PROOFS. The family of spec/00_scope.md: one step is one turn, and each turn is its agent's step (R6, R28). -/

namespace Sys2Proof.Machine

theorem step_of_sched_cons {s : State} {t : Turn} {rest : List Turn} (h : s.sched = t :: rest) :
    step s = takeTurn t { s with sched := rest } := by
  rw [step, nextTurn_cons s t rest h]

theorem step_of_again_cons {s : State} {t : Turn} {rest : List Turn} (h : s.sched = []) (h' : s.again = t :: rest) :
    step s = takeTurn t { s with sched := rest } := by
  rw [step, nextTurn_again s t rest h h']

theorem step_of_no_turns {s : State} (h : s.sched = []) (h' : s.again = []) : step s = takeTurn .core s := by
  rw [step, nextTurn_nil s h h']

@[simp] theorem takeTurn_host (act : HostAct) (s : State) : takeTurn (.host act) s = hostStep act s := rfl
@[simp] theorem takeTurn_core (s : State) : takeTurn .core s = coreTurn s := rfl
@[simp] theorem takeTurn_linkTx (s : State) : takeTurn .linkTx s = .next (linkTxStep s) := rfl
@[simp] theorem takeTurn_linkRx (s : State) : takeTurn .linkRx s = linkRxStep s := rfl
@[simp] theorem takeTurn_arrive (p : List Byte) (s : State) :
    takeTurn (.arrive p) s = .next { s with rxWire := s.rxWire ++ [p] } := rfl
@[simp] theorem takeTurn_reset (s : State) : takeTurn .reset s = .next (resetEvent s) := rfl

/-- Settles O5: the turn is picked by the three cases of `nextTurn`, each turn is its agent's step by definition, and
CORE's turn is split by BUSY and by the drain under way. -/
theorem stepRunsLatchedCommand : Obligations.StepRunsLatchedCommand := by
  unfold Obligations.StepRunsLatchedCommand
  refine ⟨fun s t rest => ?turnOrder, fun s => ?agents, fun s => ?core⟩
  case turnOrder => exact ⟨step_of_sched_cons, step_of_again_cons, step_of_no_turns⟩
  case agents =>
    exact ⟨takeTurn_core s, (takeTurn_host · s), takeTurn_linkTx s, takeTurn_linkRx s, (takeTurn_arrive · s),
      takeTurn_reset s⟩
  case core => exact ⟨coreTurn_idle, fun _ => coreTurn_command, coreTurn_drain⟩

end Sys2Proof.Machine
end

section
/-! PROOFS. The order of a ring's queues (spec/10_state.md R38, R40), free of descriptors and buffers: what each ring
procedure does to `RingOrder`. -/

namespace Sys2Proof.Machine

/-! ### Rotations of the indices -/

theorem rotation_eq_rotate (n h : Nat) : rotation n h = (List.range n).rotate h := by
  apply List.ext_getElem
  · simp [rotation]
  · intro k hk _
    simp [rotation, List.getElem_rotate, Nat.add_comm h k]

/-- R38's `BUSY ++ FREE` as Mathlib's cyclic permutation of `[0, .., n - 1]`. -/
theorem rotates_iff_isRotated {n : Nat} (hn : 0 < n) (l : List Nat) :
    (∃ h, h < n ∧ l = rotation n h) ↔ l ~r List.range n := by
  constructor
  · rintro ⟨h, -, rfl⟩
    exact rotation_eq_rotate n h ▸ (List.IsRotated.forall (List.range n) h)
  · intro hl
    obtain ⟨k, hk⟩ := hl.symm
    exact ⟨k % n, Nat.mod_lt k hn, by rw [rotation_eq_rotate, ← hk]; simpa using (List.rotate_mod (List.range n) k).symm⟩

/-- In a rotation of the indices the entry after `i`, read cyclically, is the next index modulo `n`. -/
theorem head?_after_of_isRotated {n i : Nat} {before after : List Nat}
    (h : (before ++ i :: after) ~r List.range n) : (after ++ (before ++ [i])).head? = some ((i + 1) % n) := by
  have hi : i < n := by simpa using h.mem_iff (a := i)
  have hrot : (i :: (after ++ before)) ~r List.range n := List.isRotated_append.trans h
  obtain ⟨k, hk⟩ := hrot.symm
  have hlen : 0 < (List.range n).length := by simp; omega
  have hhead : k % n = i := by
    have := congrArg List.head? ((List.rotate_mod (List.range n) k).trans hk)
    rw [List.head?_rotate (Nat.mod_lt k hlen)] at this
    simpa [Nat.mod_lt k (by omega : 0 < n)] using this
  have hnext : (List.range n).rotate (k + 1) = after ++ (before ++ [i]) := by
    rw [← List.rotate_rotate, hk]; simp
  rw [← hnext, ← List.rotate_mod, List.head?_rotate (Nat.mod_lt _ hlen), ← hhead]
  simp [Nat.mod_lt _ (by omega : 0 < n)]

/-! ### What each procedure does to the order -/

variable {n i p : Nat} {en en' : Nat → Bool} {busy free : List Nat}

theorem RingOrder.size_pos (h : RingOrder n en busy free p) : 0 < n := by
  obtain ⟨k, hk, -⟩ := h.rotates
  omega

theorem RingOrder.isRotated (h : RingOrder n en busy free p) : (busy ++ free) ~r List.range n :=
  (rotates_iff_isRotated h.size_pos _).mp h.rotates

theorem RingOrder.nodup (h : RingOrder n en busy free p) : (busy ++ free).Nodup :=
  h.isRotated.nodup_iff.mpr List.nodup_range

theorem RingOrder.lt_of_mem_busy (h : RingOrder n en busy free p) (hi : i ∈ busy) : i < n := by
  simpa [hi] using h.isRotated.mem_iff (a := i)

theorem RingOrder.lt_of_mem_free (h : RingOrder n en busy free p) (hi : i ∈ free) : i < n := by
  simpa [hi] using h.isRotated.mem_iff (a := i)

/-- After reset and after TX_INIT: everything free (R118, R164). -/
theorem RingOrder.all_free (hn : 0 < n) (hoff : ∀ i, i < n → en i = false) : RingOrder n en [] (List.range n) 0 where
  rotates := (rotates_iff_isRotated hn _).mpr (.refl _)
  drainedFirst := .nil
  freeOff i hi := hoff i (by simpa using hi)
  pointer := by
    obtain ⟨m, rfl⟩ : ∃ m, n = m + 1 := ⟨n - 1, by omega⟩
    simp [pointerOf, List.range_succ_eq_map]

/-- After RX_INIT: everything armed (R119). -/
theorem RingOrder.all_armed (hn : 0 < n) (hon : ∀ i, i < n → en i = true) : RingOrder n en (List.range n) [] 0 where
  rotates := (rotates_iff_isRotated hn _).mpr (by simp [List.IsRotated.refl])
  drainedFirst := List.pairwise_of_forall_mem_list fun _ _ j hj _ => hon j (by simpa using hj)
  freeOff := by simp
  pointer := by
    obtain ⟨m, rfl⟩ : ∃ m, n = m + 1 := ⟨n - 1, by omega⟩
    simp [pointerOf, List.range_succ_eq_map, hon 0]

/-- Drained descriptors at the head of the busy queue go to the tail of the free queue (R112): the link's pointer, which
passes over them either way, stays. -/
theorem RingOrder.reclaim {drained : List Nat} (h : RingOrder n en (drained ++ busy) free p)
    (hoff : ∀ i ∈ drained, en i = false) : RingOrder n en busy (free ++ drained) p where
  rotates := by
    refine (rotates_iff_isRotated h.size_pos _).mpr (.trans ?_ h.isRotated)
    simpa using (List.isRotated_append (l := drained) (l' := busy ++ free)).symm
  drainedFirst := (List.pairwise_append.mp h.drainedFirst).2.1
  freeOff i hi := (List.mem_append.mp hi).elim (h.freeOff i) (hoff i)
  pointer := by
    have hnone : drained.find? en = none := List.find?_eq_none.mpr fun i hi => by simp [hoff i hi]
    simpa [pointerOf, List.find?_append, hnone] using h.pointer

/-- The head of the free queue is enabled and goes to the tail of the busy queue (R113, R116). -/
theorem RingOrder.arm (h : RingOrder n en busy (i :: free) p) (hon : en' i = true)
    (hsame : ∀ j, j ≠ i → en' j = en j) : RingOrder n en' (busy ++ [i]) free p := by
  obtain ⟨-, hfree, hdisj⟩ := List.nodup_append.mp h.nodup
  have hbusy : ∀ j ∈ busy, en' j = en j := fun j hj => hsame j fun hji => hdisj j hj i (by simp) hji
  refine ⟨by simpa using h.rotates, List.pairwise_append.mpr ⟨?busy, by simp, by simp [hon]⟩, fun j hj => ?free, ?ptr⟩
  case busy =>
    exact h.drainedFirst.imp_of_mem fun {a b} ha hb hab => by rwa [hbusy a ha, hbusy b hb]
  case free =>
    rw [hsame j fun hji => (List.nodup_cons.mp hfree).1 (hji ▸ hj)]
    exact h.freeOff j (by simp [hj])
  case ptr =>
    have hfind : busy.find? en' = busy.find? en := List.find?_congr hbusy
    have hp := h.pointer
    rw [pointerOf] at hp ⊢
    rw [List.find?_append, hfind]
    cases hb : busy.find? en with
    | some q => simpa [hb] using hp
    | none => simpa [hb, hon] using hp

/-- Where the link's pointer is at an enabled descriptor, that is the first enabled one of the busy queue (R40). -/
theorem RingOrder.split_at_pointer (h : RingOrder n en busy free p) (hp : en p = true) :
    ∃ served waiting, busy = served ++ p :: waiting ∧ ∀ j ∈ served, en j = false := by
  have hfind : busy.find? en = some p := by
    cases hb : busy.find? en with
    | some q => simpa [pointerOf, hb] using h.pointer
    | none =>
      have hmem : p ∈ free ++ busy := List.mem_of_mem_head? (by simpa [pointerOf, hb] using h.pointer)
      rcases List.mem_append.mp hmem with hf | hbusy
      · simp [h.freeOff p hf] at hp
      · exact absurd hp (List.find?_eq_none.mp hb p hbusy)
  obtain ⟨-, served, waiting, hbusy, hoff⟩ := List.find?_eq_some_iff_append.mp hfind
  exact ⟨served, waiting, hbusy, by simpa using hoff⟩

/-- A link serves the descriptor at its pointer and moves on to the next index modulo the ring's size (R106): that is
where R40 puts the pointer, because the queues are a rotation of the indices. -/
theorem RingOrder.serve (h : RingOrder n en busy free p) (hp : en p = true) (hoff : en' p = false)
    (hsame : ∀ j, j ≠ p → en' j = en j) : RingOrder n en' busy free ((p + 1) % n) := by
  obtain ⟨served, waiting, rfl, hserved⟩ := h.split_at_pointer hp
  have hnodup : (served ++ p :: (waiting ++ free)).Nodup := by simpa using h.nodup
  have hne : ∀ j ∈ waiting ++ free, j ≠ p := fun j hj hjp =>
    (List.nodup_cons.mp (List.nodup_append.mp hnodup).2.1).1 (hjp ▸ hj)
  have hserved' : ∀ j ∈ served ++ [p], en' j = false := fun j hj => by
    by_cases hjp : j = p
    · exact hjp ▸ hoff
    · rw [hsame j hjp]; exact hserved j (by simpa [hjp] using hj)
  obtain ⟨-, hwaiting, -⟩ := List.pairwise_append.mp h.drainedFirst
  have hon : ∀ j ∈ waiting, en' j = true := fun j hj => by
    rw [hsame j (hne j (by simp [hj]))]; exact (List.pairwise_cons.mp hwaiting).1 j hj hp
  refine ⟨h.rotates, ?sorted, fun j hj => ?free, ?ptr⟩
  case sorted =>
    rw [List.append_cons]
    refine List.pairwise_append.mpr ⟨List.pairwise_of_forall_mem_list ?_, ?_, fun a _ b hb _ => hon b hb⟩
    · exact fun a ha b _ hea => by simp [hserved' a ha] at hea
    · exact List.pairwise_of_forall_mem_list fun a _ b hb _ => hon b hb
  case free => rw [hsame j (hne j (by simp [hj]))]; exact h.freeOff j hj
  case ptr =>
    have hnext := head?_after_of_isRotated (before := served) (after := waiting ++ free) (by simpa using h.isRotated)
    have hnone : (served ++ [p]).find? en' = none := List.find?_eq_none.mpr fun j hj => by simp [hserved' j hj]
    rw [pointerOf, List.append_cons, List.find?_append, hnone]
    cases waiting with
    | nil => simpa using hnext
    | cons q waiting => simpa [hon q] using hnext

end Sys2Proof.Machine
end

section
/-! PROOFS. The TX ring's invariant (spec/10_state.md R35, R38, R40) under each of its procedures: TX_INIT, reclamation,
filling a descriptor, and LINK_TX's step. -/

namespace Sys2Proof.Machine

/-! ### The configuration's bounds -/

/-- The numeric bounds of R7 and R8. -/
theorem bounds_of_wf {c : Config} (h : c.wf = true) :
    (1 ≤ c.nTx ∧ c.nTx ≤ 65535) ∧ (1 ≤ c.nRx ∧ c.nRx ≤ 65535) ∧ c.cSlots ≤ 65535 ∧ c.maxPathLen ≤ 255 ∧
      c.txHdrBuf ≤ 255 ∧ c.txDataBuf ≤ 16777215 ∧ c.rxBuf ≤ 16777215 := by
  simp only [Config.wf, Config.txRingOk, Config.rxRingOk, Config.slotsOk, Config.pathOk, Config.hdrBufOk,
    Config.dataBufOk, Config.rxBufOk, Bool.and_eq_true, decide_eq_true_eq] at h
  omega

/-! ### Descriptors and buffers after an update -/

theorem getD_set_of_lt {α : Type} {l : List α} {i : Nat} (hi : i < l.length) (a d : α) (j : Nat) :
    (l.set i a).getD j d = if j = i then a else l.getD j d := by
  by_cases hj : j = i
  · simp [List.getD_eq_getElem?_getD, hj, hi]
  · simp [List.getD_eq_getElem?_getD, hj, Ne.symm hj]

theorem getD_set_ne {α : Type} (l : List α) (a d : α) {i j : Nat} (h : j ≠ i) : (l.set i a).getD j d = l.getD j d := by
  simp [List.getD_eq_getElem?_getD, Ne.symm h]

theorem getD_map_range {α : Type} (f : Nat → α) (n i : Nat) (d : α) :
    ((List.range n).map f).getD i d = if i < n then f i else d := by
  by_cases hi : i < n <;> simp [List.getD_eq_getElem?_getD, hi]

theorem TxRing.at_set (r r' : TxRing) {i : Nat} {d : TxDesc} (h : r'.desc = r.desc.set i d) (hi : i < r.desc.length)
    (j : Nat) : r'.at j = if j = i then d else r.at j := by
  rw [TxRing.at, h]
  exact getD_set_of_lt hi d _ j

/-- The descriptors as reset and TX_INIT leave them: all disabled, WR on the last (R118, R164). -/
theorem TxRing.at_of_desc_range {r : TxRing} {n : Nat} (h : r.desc = (List.range n).map fun i => TxDesc.reset (i + 1 == n))
    (i : Nat) : r.at i = if i < n then TxDesc.reset (i + 1 == n) else TxDesc.reset false := by
  rw [TxRing.at, h, getD_map_range]


/-- A link's pointer after it has served a descriptor (R106): the next index modulo the ring's size. -/
theorem nextPtr_toNat {p : BitVec 16} {wr : Bool} {n : Nat} (hp : p.toNat < n) (hn : n ≤ 65535)
    (hwr : wr = (p.toNat + 1 == n)) : (nextPtr p wr).toNat = (p.toNat + 1) % n := by
  by_cases hlast : p.toNat + 1 = n
  · simp [nextPtr, hwr, hlast]
  · have : (p.toNat + 1) % n = p.toNat + 1 := Nat.mod_eq_of_lt (by omega)
    simp [nextPtr, hwr, hlast, this, BitVec.toNat_add]
    omega

/-- Every buffer stays within its size where one is written within it. -/
theorem forall_mem_set_bufWrite {bufs : List (List Byte)} {size i : Nat} {x : List Byte}
    (h : ∀ b ∈ bufs, b.length ≤ size) (hx : x.length ≤ size) :
    ∀ b ∈ bufs.set i (bufWrite x (bufs.getD i [])), b.length ≤ size := by
  intro b hb
  rcases List.mem_or_eq_of_mem_set hb with hb | rfl
  · exact h b hb
  · rw [bufWrite_length, List.getD_eq_getElem?_getD]
    cases hi : bufs[i]? with
    | none => simpa using hx
    | some w => simpa [hx] using h w (List.mem_of_getElem? hi)

/-- A written buffer holds at least what was written. -/
theorem length_le_getD_set_bufWrite {bufs : List (List Byte)} {i : Nat} (x : List Byte) (hi : i < bufs.length) :
    x.length ≤ ((bufs.set i (bufWrite x (bufs.getD i []))).getD i []).length := by
  simp [List.getD_eq_getElem?_getD, hi]

/-! ### The invariant -/

/-- The invariant speaks of the configuration and the ring alone. -/
theorem TxRingOk.congr {s t : State} (h : TxRingOk s) (hc : t.cfg = s.cfg) (ht : t.tx = s.tx) : TxRingOk t := by
  obtain ⟨hdesc, hhdr, hdata, hwrap, horder, hlen, hh, hd⟩ := h
  constructor <;> simp only [hc, ht] <;> assumption

/-- A ring with every descriptor disabled and free, whatever its buffers hold within their sizes (R118, R164). -/
theorem TxRingOk.of_all_free {s : State} (hn : 1 ≤ s.cfg.nTx)
    (hdesc : s.tx.desc = (List.range s.cfg.nTx).map fun i => TxDesc.reset (i + 1 == s.cfg.nTx))
    (hfree : s.tx.free = List.range s.cfg.nTx) (hbusy : s.tx.busy = []) (hptr : s.tx.lptr = 0)
    (hhdr : s.tx.hdr.length = s.cfg.nTx) (hdata : s.tx.data.length = s.cfg.nTx)
    (hh : ∀ b ∈ s.tx.hdr, b.length ≤ s.cfg.txHdrBuf) (hd : ∀ b ∈ s.tx.data, b.length ≤ s.cfg.txDataBuf) :
    TxRingOk s := by
  have hat := TxRing.at_of_desc_range hdesc
  have hoff : ∀ i, (s.tx.at i).en = false := fun i => by rw [hat]; split <;> rfl
  refine ⟨by simp [hdesc], hhdr, hdata, fun i hi => by simp [hat, hi, TxDesc.reset], ?order, fun i hi => ?lengths,
    hh, hd⟩
  case order => rw [hbusy, hfree, hptr]; exact .all_free hn fun i _ => hoff i
  case lengths => simp [hoff i] at hi

theorem txRingOk_resetWith {c : Config} (hn : 1 ≤ c.nTx) : TxRingOk (State.resetWith c) := by
  refine .of_all_free hn rfl rfl rfl rfl (by simp [State.resetWith, TxRing.reset])
    (by simp [State.resetWith, TxRing.reset]) ?_ ?_
  · intro b hb; simp [List.eq_of_mem_replicate hb]
  · intro b hb; simp [List.eq_of_mem_replicate hb]

theorem TxRingOk.txInit {s : State} (h : TxRingOk s) (hn : 1 ≤ s.cfg.nTx) :
    TxRingOk { s with tx := Machine.txInit s.cfg.nTx s.tx } :=
  .of_all_free hn rfl rfl rfl rfl h.hdrs h.datas h.hdrFits h.dataFits

theorem TxRingOk.txReclaim {s : State} (h : TxRingOk s) : TxRingOk s.txReclaim := by
  obtain ⟨drained, hbusy, hfree, hoff, -⟩ := txReclaim_spec s.tx
  refine ⟨h.descs, h.hdrs, h.datas, h.wrap, ?_, h.lengths, h.hdrFits, h.dataFits⟩
  rw [State.txReclaim_tx, hfree]
  exact .reclaim (hbusy ▸ h.order) hoff

/-- What `tx_fill` writes to the arena (R113). -/
theorem txFill_arena (r : TxRing) (hd : List Byte) (ncl : Byte) (x : List Byte) (ie : Bool) {i : Nat} {free : List Nat}
    (hf : r.free = i :: free) :
    (txFill r hd ncl x ie).desc.length = r.desc.length ∧
      (txFill r hd ncl x ie).hdr = r.hdr.set i (bufWrite hd (r.hdr.getD i [])) ∧
      (txFill r hd ncl x ie).data = r.data.set i (bufWrite x (r.data.getD i [])) := by
  simp [txFill, hf]

/-- `tx_fill` with a header and data that fit their buffers (R113). -/
theorem TxRingOk.txFill {s : State} (h : TxRingOk s) (hwf : s.cfg.wf = true) {hd x : List Byte} {ncl : Byte}
    (hncl : ncl.toNat ≤ hd.length) (hhd : hd.length ≤ s.cfg.txHdrBuf) (hx : x.length ≤ s.cfg.txDataBuf) :
    TxRingOk (s.txFill hd ncl x) := by
  cases hf : s.tx.free with
  | nil => exact h.congr rfl (by simp [txFill_empty _ _ _ _ _ hf])
  | cons i free =>
    have horder := h.order
    rw [hf] at horder
    have hi : i < s.cfg.nTx := horder.lt_of_mem_free (by simp)
    obtain ⟨hfree, hbusy, hptr, hother, hfilled, -, -⟩ := txFill_spec s.tx hd ncl x s.ctrl.txie hf
    replace hfilled := hfilled (h.descs ▸ hi)
    obtain ⟨hdescs, hhdrs, hdatas⟩ := txFill_arena s.tx hd ncl x s.ctrl.txie hf
    refine ⟨hdescs.trans h.descs, ?hdrs, ?datas, fun j hj => ?wrap, ?order, fun j hj => ?lengths, ?hdrFits, ?dataFits⟩
    case hdrs => simpa [hhdrs] using h.hdrs
    case datas => simpa [hdatas] using h.datas
    case wrap =>
      by_cases hji : j = i
      · subst hji; simpa [hfilled] using h.wrap j hi
      · simpa [hother j hji] using h.wrap j hj
    case order =>
      rw [State.txFill_tx, hfree, hbusy, hptr]
      exact horder.arm (by simp [hfilled]) fun j hj => by rw [hother j hj]
    case lengths =>
      by_cases hji : j = i
      · subst hji
        have hw := length_le_getD_set_bufWrite hd (h.hdrs ▸ hi)
        have hw' := length_le_getD_set_bufWrite x (h.datas ▸ hi)
        obtain ⟨-, -, -, -, h8, h24, -⟩ := bounds_of_wf hwf
        simp only [State.txFill_tx, hfilled, hhdrs, hdatas, BitVec.toNat_ofNat]
        rw [Nat.mod_eq_of_lt (by omega), Nat.mod_eq_of_lt (by omega)]
        exact ⟨hncl, hw, hw'⟩
      · simp only [State.txFill_tx, hother j hji, hhdrs, hdatas, getD_set_ne _ _ _ hji] at hj ⊢
        exact h.lengths j hj
    case hdrFits => simpa [hhdrs] using forall_mem_set_bufWrite h.hdrFits hhd
    case dataFits => simpa [hdatas] using forall_mem_set_bufWrite h.dataFits hx

/-! ### LINK_TX's step -/

/-- The ring after LINK_TX has sent the packet of the descriptor at its pointer (R107). -/
def TxRing.serve (r : TxRing) : TxRing :=
  { r with
    desc := r.desc.set r.lptr.toNat { r.at r.lptr.toNat with en := false }
    lptr := nextPtr r.lptr (r.at r.lptr.toNat).wr }

/-- Where the descriptor at its pointer is not enabled LINK_TX waits (R106). -/
theorem linkTxStep_waiting {s : State} (h : (s.tx.at s.tx.lptr.toNat).en = false) : linkTxStep s = s := by
  simp [linkTxStep, h]

theorem linkTxStep_tx {s : State} (h : (s.tx.at s.tx.lptr.toNat).en = true) : (linkTxStep s).tx = s.tx.serve := by
  simp [linkTxStep, h, TxRing.serve]

/-- A LINK_TX step changes nothing but the ring, IRQ_STAT and TXOUT (R111). -/
theorem linkTxStep_frame (s : State) :
    linkTxStep s =
      { s with tx := (linkTxStep s).tx, irq := (linkTxStep s).irq, txOut := (linkTxStep s).txOut } := by
  simp only [linkTxStep]
  split <;> rfl

theorem TxRingOk.serve {s : State} (h : TxRingOk s) (hn : s.cfg.nTx ≤ 65535)
    (hen : (s.tx.at s.tx.lptr.toNat).en = true) : TxRingOk { s with tx := s.tx.serve } := by
  obtain ⟨served, waiting, hbusy, -⟩ := h.order.split_at_pointer hen
  have hp : s.tx.lptr.toNat < s.cfg.nTx := h.order.lt_of_mem_busy (by simp [hbusy])
  have hat := TxRing.at_set s.tx s.tx.serve rfl (h.descs ▸ hp)
  have hsent : (s.tx.serve.at s.tx.lptr.toNat).en = false := by simp [hat]
  have hother : ∀ j, j ≠ s.tx.lptr.toNat → s.tx.serve.at j = s.tx.at j := fun j hj => by simp [hat, hj]
  refine ⟨by simpa [TxRing.serve] using h.descs, h.hdrs, h.datas, fun j hj => ?wrap, ?order, fun j hj => ?lengths,
    h.hdrFits, h.dataFits⟩
  case wrap =>
    rw [hat]
    split <;> simp_all [h.wrap]
  case order =>
    have hptr : s.tx.serve.lptr.toNat = (s.tx.lptr.toNat + 1) % s.cfg.nTx := nextPtr_toNat hp hn (h.wrap _ hp)
    rw [hptr]
    exact h.order.serve hen hsent fun j hj => by rw [hother j hj]
  case lengths =>
    have hne : j ≠ s.tx.lptr.toNat := fun hjp => by simp [hjp, hsent] at hj
    simp only [hother j hne] at hj ⊢
    exact h.lengths j hj

end Sys2Proof.Machine
end

section
/-! PROOFS. The RX ring's invariant (spec/10_state.md R36, R38, R40, spec/42_transport.md R117) under each of its
procedures: RX_INIT, re-arming, and LINK_RX's step. -/

namespace Sys2Proof.Machine

/-! ### Descriptors after an update -/

theorem RxRing.at_set (r r' : RxRing) {i : Nat} {d : RxDesc} (h : r'.desc = r.desc.set i d) (hi : i < r.desc.length)
    (j : Nat) : r'.at j = if j = i then d else r.at j := by
  rw [RxRing.at, h]
  exact getD_set_of_lt hi d _ j

/-- The descriptors as reset and RX_INIT's first part leave them: all disabled, WR on the last (R119, R164). -/
theorem RxRing.at_of_desc_range {r : RxRing} {n : Nat} (h : r.desc = (List.range n).map fun i => RxDesc.reset (i + 1 == n))
    (i : Nat) : r.at i = if i < n then RxDesc.reset (i + 1 == n) else RxDesc.reset false := by
  rw [RxRing.at, h, getD_map_range]


/-- RX_INIT's loop leaves every descriptor it arms enabled, and the others as they were (R119). -/
theorem rxArmAll_at (ie : Bool) (q : List Nat) (r : RxRing) (hq : ∀ j ∈ q, j < r.desc.length) (i : Nat) :
    (rxArmAll ie q r).at i = if i ∈ q then { r.at i with ie := ie, en := true } else r.at i := by
  induction q generalizing r with
  | nil => simp [rxArmAll]
  | cons j q ih =>
    rw [rxArmAll, ih _ (by simpa using fun k hk => hq k (by simp [hk])),
      RxRing.at_set r _ rfl (hq j (by simp)) i]
    by_cases hij : i = j <;> simp [hij]

theorem rxArmAll_desc_length (ie : Bool) (q : List Nat) (r : RxRing) :
    (rxArmAll ie q r).desc.length = r.desc.length := by
  induction q generalizing r with
  | nil => rfl
  | cons j q ih => simp [rxArmAll, ih]

/-- After RX_INIT every descriptor of the ring is cleared, WR on the last, and armed (R119). -/
theorem rxInit_at (n : Nat) (ie : Bool) (r : RxRing) (i : Nat) :
    (rxInit n ie r).at i =
      if i < n then { RxDesc.reset (i + 1 == n) with ie := ie, en := true } else RxDesc.reset false := by
  have hclear := RxRing.at_of_desc_range (r := rxClear n r) rfl i
  rw [rxInit, rxArmAll_at _ _ _ (by simp [rxClear]), hclear]
  by_cases hi : i < n <;> simp [rxClear, hi]

/-! ### The invariant -/

/-- The invariant speaks of the configuration and the ring alone. -/
theorem RxRingOk.congr {s t : State} (h : RxRingOk s) (hc : t.cfg = s.cfg) (ht : t.rx = s.rx) : RxRingOk t := by
  obtain ⟨hdesc, hbuf, hwrap, horder, harmed, hlen, hfits⟩ := h
  constructor <;> simp only [hc, ht] <;> assumption

theorem rxRingOk_resetWith {c : Config} (hn : 1 ≤ c.nRx) : RxRingOk (State.resetWith c) := by
  have hat := RxRing.at_of_desc_range (r := RxRing.reset c) rfl
  refine ⟨by simp [State.resetWith, RxRing.reset], by simp [State.resetWith, RxRing.reset], fun i hi => ?wrap,
    .all_free hn fun i _ => ?off, .inl rfl, fun i => ?lengths, fun b hb => by simp [List.eq_of_mem_replicate hb]⟩
  case wrap => exact (congrArg RxDesc.wr (hat i)).trans (by simp [show i < c.nRx from hi, RxDesc.reset]; rfl)
  case off => exact (congrArg RxDesc.en (hat i)).trans (by split <;> rfl)
  case lengths =>
    rw [show (State.resetWith c).rx.at i = _ from hat i]
    split <;> simp [RxDesc.reset]

theorem RxRingOk.rxInit {s : State} (h : RxRingOk s) (hn : 1 ≤ s.cfg.nRx) (ie : Bool) :
    RxRingOk { s with rx := Machine.rxInit s.cfg.nRx ie s.rx } := by
  have hat := rxInit_at s.cfg.nRx ie s.rx
  obtain ⟨hfree, hbusy, hptr, hbuf⟩ := rxArmAll_queues ie _ (rxClear s.cfg.nRx s.rx) rfl
  rw [← Machine.rxInit] at hfree hbusy hptr hbuf
  refine ⟨?descs, hbuf ▸ h.bufs, fun i hi => ?wrap, ?order, .inr hfree, fun i => ?lengths, hbuf ▸ h.bufFits⟩
  case descs => simp [Machine.rxInit, rxArmAll_desc_length, rxClear]
  case wrap => simp [hat, show i < s.cfg.nRx from hi, RxDesc.reset]
  case order =>
    rw [hfree, hbusy, hptr]
    exact .all_armed hn fun i hi => by simp [hat, hi]
  case lengths =>
    rw [hat]
    split <;> simp [RxDesc.reset]

/-- `rearm_rx()` where a packet is ready (R116): nothing is free then (R117). -/
theorem RxRingOk.rxRearm {s : State} (h : RxRingOk s) {i : Nat} (hready : rxHead s.rx = some i) : RxRingOk s.rxRearm := by
  obtain ⟨⟨busy, hb⟩, hoff⟩ := (rxHead_eq_some_iff ..).mp hready
  have hf : s.rx.free = [] := h.armed.resolve_left (by simp [hb])
  have horder := h.order
  rw [hb, hf] at horder
  have hi : i < s.cfg.nRx := horder.lt_of_mem_busy (by simp)
  obtain ⟨hfree, hbusy, hptr, hbuf, hother, harmed⟩ := rxRearm_spec s.rx s.ctrl.rxie hb hf
  replace harmed := harmed (h.descs ▸ hi)
  have hdescs : (Machine.rxRearm s.rx s.ctrl.rxie).desc.length = s.rx.desc.length := by
    simp [Machine.rxRearm, hb, hf]
  refine ⟨hdescs.trans h.descs, hbuf ▸ h.bufs, fun j hj => ?wrap, ?order, .inr hfree, fun j => ?lengths,
    hbuf ▸ h.bufFits⟩
  case wrap =>
    by_cases hji : j = i
    · subst hji; simpa [harmed] using h.wrap j hi
    · simpa [hother j hji] using h.wrap j hj
  case order =>
    rw [State.rxRearm_rx, hfree, hbusy, hptr]
    have hreclaimed := RingOrder.reclaim (drained := [i]) (busy := busy) horder (by simpa using hoff)
    exact hreclaimed.arm (by simp [harmed]) fun j hj => by rw [hother j hj]
  case lengths =>
    rw [State.rxRearm_rx, hbuf]
    by_cases hji : j = i
    · simp [hji, harmed]
    · simpa [hother j hji] using h.lengths j

/-! ### LINK_RX's step -/

/-- The ring after LINK_RX has taken a packet into the descriptor at its pointer, cut to the buffer's size (R109). -/
def RxRing.receive (r : RxRing) (size : Nat) (p : List Byte) : RxRing :=
  { r with
    desc := r.desc.set r.lptr.toNat
      { r.at r.lptr.toNat with size := BitVec.ofNat 24 (min p.length size), tr := size < p.length, en := false }
    buf := r.buf.set r.lptr.toNat (bufWrite (p.take (min p.length size)) (r.buf.getD r.lptr.toNat []))
    lptr := nextPtr r.lptr (r.at r.lptr.toNat).wr }

/-- What a LINK_RX step can do: wait, or take the first packet on the link at an enabled descriptor (R106, R109). -/
theorem linkRxStep_cases {s t : State} (h : linkRxStep s = .next t) :
    t = s ∨ ∃ p wire, s.rxWire = p :: wire ∧ (s.rx.at s.rx.lptr.toNat).en = true ∧ p.length ≤ 16777215 ∧
      t =
        { s with
          rxWire := wire
          irq := { s.irq with rxi := s.irq.rxi || (s.rx.at s.rx.lptr.toNat).ie }
          rx := s.rx.receive s.cfg.rxBuf p } := by
  cases hwire : s.rxWire with
  | nil => exact .inl (by simpa [linkRxStep, hwire] using h.symm)
  | cons p wire =>
    cases hen : (s.rx.at s.rx.lptr.toNat).en with
    | false => exact .inl (by simpa [linkRxStep, hwire, hen] using h.symm)
    | true =>
      by_cases hlong : p.length > 16777215
      · simp [linkRxStep, hwire, hen, hlong] at h
      · refine .inr ⟨p, wire, rfl, rfl, by omega, ?_⟩
        simpa [linkRxStep, hwire, hen, hlong, RxRing.receive] using h.symm

theorem RxRingOk.receive {s : State} (h : RxRingOk s) (hwf : s.cfg.wf = true)
    (hen : (s.rx.at s.rx.lptr.toNat).en = true) (p : List Byte) :
    RxRingOk { s with rx := s.rx.receive s.cfg.rxBuf p } := by
  obtain ⟨-, ⟨-, hn⟩, -, -, -, -, h24⟩ := bounds_of_wf hwf
  obtain ⟨served, waiting, hbusy, -⟩ := h.order.split_at_pointer hen
  have hp : s.rx.lptr.toNat < s.cfg.nRx := h.order.lt_of_mem_busy (by simp [hbusy])
  have hat := RxRing.at_set s.rx (s.rx.receive s.cfg.rxBuf p) rfl (h.descs ▸ hp)
  have hfilled : ((s.rx.receive s.cfg.rxBuf p).at s.rx.lptr.toNat).en = false := by simp [hat]
  have hother : ∀ j, j ≠ s.rx.lptr.toNat → (s.rx.receive s.cfg.rxBuf p).at j = s.rx.at j :=
    fun j hj => by simp [hat, hj]
  have hstored : (p.take (min p.length s.cfg.rxBuf)).length = min p.length s.cfg.rxBuf := by simp
  refine ⟨by simpa [RxRing.receive] using h.descs, by simpa [RxRing.receive] using h.bufs, fun j hj => ?wrap, ?order,
    h.armed, fun j => ?lengths, forall_mem_set_bufWrite h.bufFits (hstored.trans_le (Nat.min_le_right ..))⟩
  case wrap =>
    rw [hat]
    split <;> simp_all [h.wrap]
  case order =>
    have hptr : (s.rx.receive s.cfg.rxBuf p).lptr.toNat = (s.rx.lptr.toNat + 1) % s.cfg.nRx :=
      nextPtr_toNat hp hn (h.wrap _ hp)
    rw [hptr]
    exact h.order.serve hen hfilled fun j hj => by rw [hother j hj]
  case lengths =>
    by_cases hjp : j = s.rx.lptr.toNat
    · have hw := length_le_getD_set_bufWrite (p.take (min p.length s.cfg.rxBuf)) (h.bufs ▸ hp)
      rw [hstored] at hw
      rw [hat, hjp, if_pos rfl, BitVec.toNat_ofNat, Nat.mod_eq_of_lt (by omega)]
      exact hw
    · rw [hother j hjp]
      simp only [RxRing.receive, getD_set_ne _ _ _ hjp]
      exact h.lengths j

end Sys2Proof.Machine
end

section
/-! PROOFS. The transaction log's invariant (spec/10_state.md R41, R42) under the slot procedures (spec/43_translog.md
R131, R132, R137). -/

namespace Sys2Proof.Machine

/-- The invariant speaks of the configuration, the table and PEND alone. -/
theorem SlotsOk.congr {s t : State} (h : SlotsOk s) (hc : t.cfg = s.cfg) (hs : t.slots = s.slots)
    (hp : t.pend = s.pend) : SlotsOk t := by
  obtain ⟨hsize, hcount, hidle⟩ := h
  constructor <;> simp only [State.usedSlots, hc, hs, hp] <;> assumption

theorem slotsOk_resetWith (c : Config) : SlotsOk (State.resetWith c) where
  size := by simp [State.resetWith]
  count := by simp [State.resetWith, State.usedSlots, List.countP_replicate, Slot.idle]
  idle := fun e he _ => List.eq_of_mem_replicate he

theorem State.slot_eq_getElem {s : State} {j : Nat} (hj : j < s.slots.length) : s.slot j = s.slots[j] := by
  simp [State.slot, List.getD_eq_getElem?_getD, hj]

/-- A free slot is taken (R131); PEND does not wrap, since the table has at most 65535 slots. -/
theorem SlotsOk.grab {s : State} (h : SlotsOk s) (hwf : s.cfg.wf = true) {j : Nat} (hj : j < s.slots.length)
    (hfree : (s.slot j).used = false) (hd : Bool) (a : Word) :
    SlotsOk { s with slots := s.slots.set j ⟨true, hd, a⟩, pend := s.pend + 1 } := by
  obtain ⟨-, -, hslots, -⟩ := bounds_of_wf hwf
  have hcount : (s.slots.set j ⟨true, hd, a⟩).countP (·.used) = s.slots.countP (·.used) + 1 := by
    rw [State.slot_eq_getElem hj] at hfree
    simp [List.countP_set hj, hfree]
  have hle : (s.slots.set j ⟨true, hd, a⟩).countP (·.used) ≤ s.cfg.cSlots :=
    List.countP_le_length.trans_eq (by simpa using h.size)
  refine ⟨by simpa using h.size, ?_, fun e he hu => ?_⟩
  · have := h.count
    simp only [State.usedSlots] at this ⊢
    rw [hcount, BitVec.toNat_add, show (1 : Word).toNat = 1 from rfl]
    omega
  · rcases List.mem_or_eq_of_mem_set he with he | rfl
    · exact h.idle e he hu
    · cases hu

/-- A slot in use is freed (R132). -/
theorem SlotsOk.release {s : State} (h : SlotsOk s) {j : Nat} (hj : j < s.cfg.cSlots) (hused : (s.slot j).used = true) :
    SlotsOk { s with slots := s.slots.set j Slot.idle, pend := s.pend - 1 } := by
  rw [← h.size] at hj
  rw [State.slot_eq_getElem hj] at hused
  refine ⟨by simpa using h.size, ?_, fun e he hu => ?_⟩
  · have hpos : 0 < s.slots.countP (·.used) := List.countP_pos_iff.mpr ⟨_, List.getElem_mem hj, hused⟩
    have hcount : (s.slots.set j Slot.idle).countP (·.used) = s.slots.countP (·.used) - 1 := by
      simp [List.countP_set hj, hused, Slot.idle]
    have hpend := h.count
    have := s.pend.isLt
    simp only [State.usedSlots] at hpend ⊢
    rw [hcount, BitVec.toNat_sub, show (1 : Word).toNat = 1 from rfl]
    omega
  · exact (List.mem_or_eq_of_mem_set he).elim (fun he => h.idle e he hu) id

end Sys2Proof.Machine
end

section
/-! PROOFS. The invariant of the packet builder and of the link configuration (spec/10_state.md R32, R34) under the
commands that write them (spec/41_codec.md R84 to R103, spec/43_translog.md R138). -/

namespace Sys2Proof.Machine

theorem pathsOk_reset (c : Config) :
    PathsOk c (List.replicate c.maxPathLen 0) 0 (List.replicate Config.maxRpathLen 0) 0 :=
  ⟨by simp, by simp, by simp, by simp⟩

theorem pktOk_resetWith (c : Config) : PktOk (State.resetWith c) :=
  ⟨pathsOk_reset c, by simp [State.resetWith, Pkt.reset, isReservedIb]⟩

theorem linkOk_resetWith (c : Config) : LinkOk (State.resetWith c) := pathsOk_reset c

/-- The invariant speaks of the configuration and PKT alone. -/
theorem PktOk.congr {s t : State} (h : PktOk s) (hc : t.cfg = s.cfg) (hp : t.pkt = s.pkt) : PktOk t := by
  obtain ⟨hpaths, hrsv⟩ := h
  constructor <;> rw [hp] <;> simpa only [hc]

theorem LinkOk.congr {s t : State} (h : LinkOk s) (hc : t.cfg = s.cfg) (hl : t.link = s.link) : LinkOk t := by
  unfold LinkOk at *
  rwa [hc, hl]

/-- A destination path no longer than its buffer (R93). -/
theorem PathsOk.setPath {c : Config} {path rpath x : List Byte} {len rlen b : Byte} (h : PathsOk c path len rpath rlen)
    (hx : x.length = b.toNat) (hb : b.toNat ≤ c.maxPathLen) : PathsOk c (bufWrite x path) b rpath rlen where
  pathSize := by have := h.pathSize; simp; omega
  pathLen_le := hb
  rpathSize := h.rpathSize
  rpathLen_ok := h.rpathLen_ok

/-- A reply path of a multiple of 4 bytes, at most 12 (R94, R103). -/
theorem PathsOk.setRpath {c : Config} {path rpath x : List Byte} {len rlen b : Byte} (h : PathsOk c path len rpath rlen)
    (hx : x.length ≤ Config.maxRpathLen) (hb : b.toNat ≤ Config.maxRpathLen) (h4 : b.toNat % 4 = 0) :
    PathsOk c path len (bufWrite x rpath) b where
  pathSize := h.pathSize
  pathLen_le := h.pathLen_le
  rpathSize := by have := h.rpathSize; simp; omega
  rpathLen_ok := by simp only [Config.maxRpathLen] at hb; simp; omega

/-! ### Bit 7 of the instruction byte -/

theorem isReservedIb_setCmd (code : BitVec 4) (ib : Byte) : isReservedIb (0#1 ++ 1#1 ++ code ++ ralOf ib) = false :=
  (BitVec.getLsbD_append (x := 0#1 ++ 1#1 ++ code) (y := ralOf ib)).trans
    ((BitVec.getLsbD_append (x := 0#1 ++ 1#1) (y := code)).trans (by simp))

theorem isReservedIb_setReply {ib : Byte} (h : isReservedIb ib = false) : isReservedIb (ib &&& 0xBF#8) = false := by
  simp_all [isReservedIb]

theorem isReservedIb_setRal {ib : Byte} (h : isReservedIb ib = false) (ral : BitVec 2) :
    isReservedIb (ib.extractLsb' 2 6 ++ ral) = false :=
  (BitVec.getLsbD_append (x := ib.extractLsb' 2 6) (y := ral)).trans (by simpa [isReservedIb] using h)

/-- A packet that parses has bit 7 of its instruction byte 0 (R100, check 2). -/
theorem isReservedIb_of_prs {c : Config} {pcrc : Bool} {b : List Byte} {r : Parsed} (h : prs c pcrc b = .ok r) :
    isReservedIb r.ib = false := by
  obtain ⟨hcheck, rfl⟩ := (prs_ok_iff ..).mp h
  by_contra hrsv
  have hrsv' : isReservedIb (byteAt b 2) = true := by simpa [prsFields] using hrsv
  simp only [prsCheck, hrsv', Bool.true_or, if_true] at hcheck
  split at hcheck <;> cases hcheck

/-- The reply path of a packet that parses: 0, 4, 8 or 12 bytes (R99). -/
theorem rpath_of_prs {c : Config} {pcrc : Bool} {b : List Byte} {r : Parsed} (h : prs c pcrc b = .ok r) :
    r.rpath.length ≤ Config.maxRpathLen ∧ r.rl ≤ Config.maxRpathLen ∧ r.rl % 4 = 0 := by
  obtain ⟨-, rfl⟩ := (prs_ok_iff ..).mp h
  have hral := (ralOf (byteAt b 2)).isLt
  simp only [prsFields, slice, Config.maxRpathLen, parsedRpathLen, List.length_take]
  split <;> omega

theorem PktOk.parsed {s : State} (h : PktOk s) {pcrc : Bool} {b : List Byte} {r : Parsed}
    (hr : prs s.cfg pcrc b = .ok r) : PktOk { s with pkt := parsedPkt s.pkt r } := by
  obtain ⟨hx, hrl, h4⟩ := rpath_of_prs hr
  have hlen : (BitVec.ofNat 8 r.rl).toNat = r.rl := by
    simp only [Config.maxRpathLen] at hrl
    simp; omega
  have hpaths : PathsOk s.cfg s.pkt.path 0 s.pkt.rpath s.pkt.rpathLen := { h.paths with pathLen_le := by simp }
  exact ⟨hpaths.setRpath hx (hlen ▸ hrl) (hlen ▸ h4), isReservedIb_of_prs hr⟩

end Sys2Proof.Machine
end

section
/-! PROOFS. What any step can do, said once: every turn of every agent is a chain of elementary operations, and every
command but the two that start a drain ends in `finish`. The invariants are then proved operation by operation. -/

namespace Sys2Proof.Machine

/-! ### The elementary operations -/

/-- The configuration and everything the invariants of memory, packets, rings and slots speak of are the same. -/
structure SameStores (s t : State) : Prop where
  cfg : t.cfg = s.cfg
  pkt : t.pkt = s.pkt
  link : t.link = s.link
  tx : t.tx = s.tx
  rx : t.rx = s.rx
  slots : t.slots = s.slots
  pend : t.pend = s.pend
  lmem : t.lmem = s.lmem

/-- One elementary operation on the state, with what its caller has checked before. -/
inductive Op : State → State → Prop
  /-- Registers, counters, latches, observations and the environment's inputs. -/
  | registers {s t : State} (h : SameStores s t) : Op s t
  /-- MemWrite to a range that exists (R46, R47). -/
  | store {s : State} {a : Nat} {x : List Byte} (h : s.rangeOK a x.length = true) : Op s (s.memWrite a x)
  /-- A write of PKT within R32. -/
  | packet {s : State} {p : Pkt} (h : PktOk s → PktOk { s with pkt := p }) : Op s { s with pkt := p }
  /-- LINK_LOAD (R138). -/
  | linkLoad {s : State} :
      Op s
        { s with
          link :=
            { dst := s.pkt.dst, src := s.pkt.src, key := s.pkt.key, path := s.pkt.path, pathLen := s.pkt.pathLen
              rpath := s.pkt.rpath, rpathLen := s.pkt.rpathLen } }
  /-- TX_INIT (R118). -/
  | txInit {s : State} : Op s { s with tx := txInit s.cfg.nTx s.tx }
  /-- `reclaim_tx()` (R112). -/
  | txReclaim {s : State} : Op s s.txReclaim
  /-- `tx_fill` of a header and data that fit their buffers (R113). -/
  | txFill {s : State} {hd x : List Byte} {ncl : Byte} (hncl : ncl.toNat ≤ hd.length)
      (hhd : hd.length ≤ s.cfg.txHdrBuf) (hx : x.length ≤ s.cfg.txDataBuf) : Op s (s.txFill hd ncl x)
  /-- RX_INIT (R119). -/
  | rxInit {s : State} : Op s { s with rx := rxInit s.cfg.nRx s.ctrl.rxie s.rx }
  /-- `rearm_rx()` where a packet is ready (R115, R116). -/
  | rxRearm {s : State} {i : Nat} (h : rxHead s.rx = some i) : Op s s.rxRearm
  /-- A free slot is taken (R131). -/
  | grab {s : State} {hd : Bool} {a : Word} {j : Nat} (hj : j < s.slots.length) (hfree : (s.slot j).used = false) :
      Op s { s with slots := s.slots.set j ⟨true, hd, a⟩, pend := s.pend + 1 }
  /-- A slot in use is freed (R132). -/
  | release {s : State} {j : Nat} (hj : j < s.cfg.cSlots) (hused : (s.slot j).used = true) :
      Op s { s with slots := s.slots.set j Slot.idle, pend := s.pend - 1 }
  /-- LINK_TX sends the packet at its pointer (R107). -/
  | serve {s : State} (hen : (s.tx.at s.tx.lptr.toNat).en = true) : Op s { s with tx := s.tx.serve }
  /-- LINK_RX takes a packet into the descriptor at its pointer (R109). -/
  | receive {s : State} {p : List Byte} (hen : (s.rx.at s.rx.lptr.toNat).en = true) (hp : p.length ≤ 16777215) :
      Op s { s with rx := s.rx.receive s.cfg.rxBuf p }
  /-- The reset event (R163). -/
  | reset {s : State} : Op s (resetEvent s)

/-- A chain of elementary operations. -/
abbrev Ops : State → State → Prop := Relation.ReflTransGen Op

theorem Ops.refl {s : State} : Ops s s := Relation.ReflTransGen.refl

theorem Op.ops {s t : State} (h : Op s t) : Ops s t := .single h

theorem SameStores.ops {s t : State} (h : SameStores s t) : Ops s t := .single (.registers h)

/-- A predicate that every operation keeps holds at the end of every chain. -/
theorem Ops.keeps {P : State → Prop} (hop : ∀ s t, Op s t → P s → P t) {s t : State} (h : Ops s t) (hs : P s) : P t := by
  induction h with
  | refl => exact hs
  | tail _ ho ih => exact hop _ _ ho ih

/-! ### How a command ends -/

/-- A command ended: a chain of operations, the port free, no drain, OVR as it was (R29). -/
structure Ended (s t : State) : Prop where
  ops : Ops s t
  busy : t.status.busy = false
  drainMode : t.drainMode = .none
  ovr : t.status.ovr = s.status.ovr

theorem sameStores_finish (c : Code) (s : State) : SameStores s (finish c s) := ⟨rfl, rfl, rfl, rfl, rfl, rfl, rfl, rfl⟩

theorem sameStores_result (v : Word) (s : State) : SameStores s { s with result := v } :=
  ⟨rfl, rfl, rfl, rfl, rfl, rfl, rfl, rfl⟩

theorem sameStores_rxBytes (v : Word) (s : State) : SameStores s { s with rxBytes := v } :=
  ⟨rfl, rfl, rfl, rfl, rfl, rfl, rfl, rfl⟩

theorem sameStores_warnLong (s : State) (long : Bool) : SameStores s (s.warnLong long) := by
  cases long <;> exact ⟨rfl, rfl, rfl, rfl, rfl, rfl, rfl, rfl⟩

namespace Ended

variable {s u a b : State}

theorem finish (c : Code) (h : Ops s u) (hovr : u.status.ovr = s.status.ovr) : Ended s (finish c u) :=
  ⟨h.trans (sameStores_finish c u).ops, rfl, rfl, hovr⟩

theorem finishWith (c : Code) (v : Word) (h : Ops s u) (hovr : u.status.ovr = s.status.ovr) :
    Ended s (finishWith c v u) :=
  .finish c (h.trans (sameStores_result v u).ops) hovr

/-- The command ends with a code and nothing else. -/
theorem code (c : Code) : Ended s (Machine.finish c s) := .finish c .refl rfl

/-- The command ends with a code and a result and nothing else. -/
theorem answer (c : Code) (v : Word) : Ended s (Machine.finishWith c v s) := .finishWith c v .refl rfl

theorem ite {p : Prop} [Decidable p] (ht : p → Ended s a) (hf : ¬ p → Ended s b) : Ended s (if p then a else b) := by
  by_cases hp : p
  · simpa [hp] using ht hp
  · simpa [hp] using hf hp

/-- The command writes PKT and ends OK. -/
theorem packet {p : Pkt} (h : PktOk s → PktOk { s with pkt := p }) : Ended s (Machine.finish .ok { s with pkt := p }) :=
  .finish .ok (Op.packet h).ops rfl

/-- The command writes fields of PKT other than its paths and its instruction byte, and ends OK. -/
theorem fields {p : Pkt} (hpath : p.path = s.pkt.path) (hlen : p.pathLen = s.pkt.pathLen)
    (hrpath : p.rpath = s.pkt.rpath) (hrlen : p.rpathLen = s.pkt.rpathLen) (hib : p.instr = s.pkt.instr) :
    Ended s (Machine.finish .ok { s with pkt := p }) :=
  .packet fun h => ⟨by simpa only [hpath, hlen, hrpath, hrlen] using h.paths, by simpa only [hib] using h.reserved⟩

end Ended

/-! ### The commands -/

theorem execPktClear_ends (s : State) : ∃ t, execPktClear s = .next t ∧ Ended s t :=
  ⟨_, rfl, .packet fun _ => ⟨pathsOk_reset s.cfg, by simp [isReservedIb]⟩⟩

theorem execPktSetPath_ends (b : Byte) (s : State) : ∃ t, execPktSetPath b s = .next t ∧ Ended s t :=
  ⟨_, rfl, .ite (fun _ => .code _) fun hb => .ite (fun _ => .code _) fun _ =>
    .packet fun h => ⟨h.paths.setPath (Memory.read_length ..) (Nat.not_lt.mp hb), h.reserved⟩⟩

theorem execPktSetRpath_ends (b : Byte) (s : State) : ∃ t, execPktSetRpath b s = .next t ∧ Ended s t :=
  ⟨_, rfl, .ite (fun _ => .code _) fun hb => .ite (fun _ => .code _) fun _ => .packet fun h => by
    simp only [Bool.or_eq_true, decide_eq_true_eq, bne_iff_ne, not_or, not_not, Nat.not_lt] at hb
    obtain ⟨hle, h4⟩ := hb
    exact ⟨h.paths.setRpath ((Memory.read_length ..).trans_le hle) hle h4, isReservedIb_setRal h.reserved _⟩⟩

theorem execPktGet_ends (sel : BitVec 4) (idx : Byte) (s : State) :
    ∃ t, execPktGet sel idx s = .next t ∧ Ended s t := by
  refine ⟨_, rfl, ?_⟩
  split
  · exact .code _
  · exact .answer _ _

theorem execSerialize_ends (s : State) : ∃ t, execSerialize s = .next t ∧ Ended s t :=
  ⟨_, rfl, .ite (fun _ => .code _) fun _ => .ite (fun _ => .code _) fun hr =>
    .finishWith _ _ (Op.store (by simpa using hr)).ops rfl⟩

theorem execParse_ends (s : State) : ∃ t, execParse s = .next t ∧ Ended s t := by
  refine ⟨_, rfl, .ite (fun _ => .code _) fun _ => ?_⟩
  split
  · exact .code _
  · rename_i r hr
    refine .ite (fun _ => .code _) fun ha => .finishWith _ _ ?_ (by cases r.long <;> rfl)
    have hstore : s.rangeOK s.a2 r.payload.length = true := by simpa [payload_length hr] using ha
    exact ((Op.packet fun h => h.parsed hr).ops.tail (.store hstore)).tail (.registers (sameStores_warnLong _ _))

theorem execTxEnqueue_ends (hlen ncl : Byte) (s : State) : ∃ t, execTxEnqueue hlen ncl s = .next t ∧ Ended s t := by
  refine ⟨_, rfl, .ite (fun _ => .code _) fun hncl => .ite (fun _ => .code _) fun hbig => .ite (fun _ => .code _)
    fun _ => .ite (fun _ => .finish _ Op.txReclaim.ops rfl) fun _ => .finish _ (Op.txReclaim.ops.tail (.txFill ?_ ?_ ?_)) rfl⟩
  all_goals
    simp only [Bool.or_eq_true, decide_eq_true_eq, not_or, BitVec.not_lt, BitVec.le_def] at hncl hbig
    simp only [State.memRead, Memory.read_length, State.txReclaim_cfg]
    omega

theorem execRxPoll_ends (s : State) : ∃ t, execRxPoll s = .next t ∧ Ended s t := by
  refine ⟨_, rfl, ?_⟩
  split
  · exact .answer _ _
  · exact .answer _ _

theorem execRxFetch_ends (s : State) : ∃ t, execRxFetch s = .next t ∧ Ended s t := by
  refine ⟨_, rfl, ?_⟩
  split
  · exact .answer _ _
  · rename_i i hi
    refine .ite (fun _ => .code _) fun hr => .finishWith _ _ ?_ rfl
    have hstore : s.rangeOK s.a0 (s.rx.bytes i (s.rx.at i).size.toNat).length = true := by
      simpa [RxRing.bytes] using hr
    exact ((Op.store hstore).ops.tail (.registers (sameStores_rxBytes _ _))).tail (.rxRearm hi)

theorem execRxDrop_ends (s : State) : ∃ t, execRxDrop s = .next t ∧ Ended s t := by
  refine ⟨_, rfl, ?_⟩
  split
  · exact .answer _ _
  · rename_i i hi
    exact .finishWith _ _ (Op.rxRearm hi).ops rfl

theorem execDescRead_ends (idx : BitVec 16) (ring : Ring) (word : Bool) (s : State) :
    ∃ t, execDescRead idx ring word s = .next t ∧ Ended s t := by
  cases ring with
  | tx => exact ⟨_, rfl, .ite (fun _ => .code _) fun _ => .answer _ _⟩
  | rx => exact ⟨_, rfl, .ite (fun _ => .code _) fun _ => .answer _ _⟩

theorem grab_ops {s t : State} {hd : Bool} {a : Word} {j : Nat} (h : s.grab hd a = some (j, t)) : Ops s t := by
  obtain ⟨hj, hfree, -, rfl⟩ := grab_some s hd a h
  exact (Op.grab hj hfree).ops

theorem release_ops (s : State) (j : Nat) : Ops s (s.release j) := by
  by_cases hj : j < s.cfg.cSlots ∧ (s.slot j).used = true
  · rw [release_used s j hj.1 hj.2]
    exact (Op.release hj.1 hj.2).ops
  · rw [release_idle s j hj]

theorem grab_status {s t : State} {hd : Bool} {a : Word} {j : Nat} (h : s.grab hd a = some (j, t)) :
    t.status = s.status ∧ t.cfg = s.cfg ∧ t.link = s.link := by
  obtain ⟨-, -, -, rfl⟩ := grab_some s hd a h
  exact ⟨rfl, rfl, rfl⟩

theorem execTlGrab_ends (hd : Bool) (s : State) : ∃ t, execTlGrab hd s = .next t ∧ Ended s t := by
  refine ⟨_, rfl, ?_⟩
  split
  · exact .code _
  · rename_i j u hg
    exact .finishWith _ _ (grab_ops hg) (by rw [(grab_status hg).1])

theorem execTlRelease_ends (id : BitVec 16) (s : State) : ∃ t, execTlRelease id s = .next t ∧ Ended s t := by
  refine ⟨_, rfl, .finish _ (release_ops s _) ?_⟩
  obtain ⟨slots, pend, h⟩ := release_frame s id.toNat
  rw [h]

theorem execTlReset_ends (s : State) : ∃ t, execTlReset s = .next t ∧ Ended s t := by
  have hfold : ∀ (l : List Nat) (u : State), Ops u (l.foldl State.release u) := by
    intro l
    induction l with
    | nil => exact fun _ => .refl
    | cons j l ih => exact fun u => (release_ops u j).trans (ih _)
  refine ⟨_, rfl, .finish _ (hfold _ s) ?_⟩
  obtain ⟨slots, pend, h⟩ := releaseAll_frame s
  rw [h]

theorem execLinkLoad_ends (s : State) : ∃ t, execLinkLoad s = .next t ∧ Ended s t :=
  ⟨_, rfl, .finish _ Op.linkLoad.ops rfl⟩

/-- The manager's packet is a command, so its header has at most 15 bytes besides its paths (R139). -/
theorem length_ser_managerPkt (c : Config) (l : LinkCfg) (code : BitVec 4) (j : Nat) (addr : Word) (dlen : BitVec 24) :
    l.pathLen.toNat ≤ (ser c (managerPkt l code j addr dlen)).length ∧
      (ser c (managerPkt l code j addr dlen)).length ≤ l.pathLen.toNat + l.rpathLen.toNat + 15 := by
  have hcmd : isCmd (managerPkt l code j addr dlen).instr = true := by simp [isCmd, managerPkt]
  simp only [ser, hcmd, hasRsvd, Bool.not_true, Bool.and_false, Bool.false_and, Bool.false_eq_true, if_true, if_false,
    List.length_append, pathBytes_length, be16_length, be32_length, List.length_cons, List.length_nil]
  split <;> simp [managerPkt] <;> omega

/-- What a SUBMIT does once it has its slot: both ends are chains of operations (R140, R141). -/
theorem submitSend_ends (code : BitVec 4) {x : List Byte} {hd : Bool} {a : Word} {j : Nat} {s u : State}
    (hg : s.grab hd a = some (j, u)) (hhdr : s.managerHdrLen ≤ s.cfg.txHdrBuf) (hx : x.length ≤ s.cfg.txDataBuf) :
    Ended s (submitSend code x j u) := by
  obtain ⟨hstatus, hcfg, hlink⟩ := grab_status hg
  obtain ⟨hncl, hlen⟩ := length_ser_managerPkt u.cfg u.link code j u.larg0 (u.larg2.extractLsb' 0 24)
  have hreclaim : Ops s u.txReclaim := (grab_ops hg).tail .txReclaim
  refine .ite (fun _ => .finishWith _ _ hreclaim (by simp [hstatus])) fun _ =>
    .finishWith _ _ (hreclaim.tail (.txFill hncl ?_ ?_)) (by simp [hstatus])
  · simp only [State.managerHdrLen, ← hlink, ← hcfg] at hhdr
    exact hlen.trans hhdr
  · simpa [hcfg] using hx

theorem execSubmitWrite_ends (s : State) : ∃ t, execSubmitWrite s = .next t ∧ Ended s t := by
  refine ⟨_, rfl, .ite (fun _ => .code _) fun _ => .ite (fun _ => .code _) fun hbig => .ite (fun _ => .code _) fun _ => ?_⟩
  simp only [Bool.or_eq_true, decide_eq_true_eq, not_or, Nat.not_lt] at hbig
  split
  · exact .code _
  · rename_i j u hg
    exact submitSend_ends _ hg hbig.1 ((Memory.read_length ..).trans_le hbig.2)

theorem execSubmitRead_ends (s : State) : ∃ t, execSubmitRead s = .next t ∧ Ended s t := by
  refine ⟨_, rfl, .ite (fun _ => .code _) fun _ => .ite (fun _ => .code _) fun hbig => .ite (fun _ => .code _) fun _ =>
    .ite (fun _ => .code _) fun _ => ?_⟩
  split
  · exact .code _
  · rename_i j u hg
    exact submitSend_ends _ hg (Nat.not_lt.mp hbig) (Nat.zero_le _)

/-- Every command but the two that start a drain ends in its one step (R28, R29). -/
theorem exec_ends {i : Instr} (s : State) (hdrain : i ≠ .drain) (hpcount : i ≠ .pendingCount) :
    ∃ t, exec i s = .next t ∧ Ended s t := by
  cases i with
  | crc8 => exact ⟨_, rfl, .ite (fun _ => .code _) fun _ => .answer _ _⟩
  | pktClear => exact execPktClear_ends s
  | pktSetDst b => exact ⟨_, rfl, .fields rfl rfl rfl rfl rfl⟩
  | pktSetSrc b => exact ⟨_, rfl, .fields rfl rfl rfl rfl rfl⟩
  | pktSetKey b => exact ⟨_, rfl, .fields rfl rfl rfl rfl rfl⟩
  | pktSetCmd code =>
    exact ⟨_, rfl, .ite (fun _ => .code _) fun _ => .packet fun h => ⟨h.paths, isReservedIb_setCmd code _⟩⟩
  | pktSetReply => exact ⟨_, rfl, .packet fun h => ⟨h.paths, isReservedIb_setReply h.reserved⟩⟩
  | pktSetTid h => exact ⟨_, rfl, .fields rfl rfl rfl rfl rfl⟩
  | pktSetAddr => exact ⟨_, rfl, .fields rfl rfl rfl rfl rfl⟩
  | pktSetDlen => exact ⟨_, rfl, .ite (fun _ => .code _) fun _ => .fields rfl rfl rfl rfl rfl⟩
  | pktSetPath b => exact execPktSetPath_ends b s
  | pktSetRpath b => exact execPktSetRpath_ends b s
  | pktGet sel idx => exact execPktGet_ends sel idx s
  | hdrSize => exact ⟨_, rfl, .ite (fun _ => .code _) fun _ => .answer _ _⟩
  | serialize => exact execSerialize_ends s
  | parse => exact execParse_ends s
  | txInit => exact ⟨_, rfl, .finish _ Op.txInit.ops rfl⟩
  | rxInit => exact ⟨_, rfl, .finish _ Op.rxInit.ops rfl⟩
  | txEnqueue hlen ncl => exact execTxEnqueue_ends hlen ncl s
  | rxPoll => exact execRxPoll_ends s
  | rxFetch => exact execRxFetch_ends s
  | rxDrop => exact execRxDrop_ends s
  | descRead idx ring word => exact execDescRead_ends idx ring word s
  | ringStat ring sel => exact ⟨_, rfl, .answer _ _⟩
  | tlGrab hd => exact execTlGrab_ends hd s
  | tlRelease id => exact execTlRelease_ends id s
  | tlQuery id word =>
    exact ⟨_, rfl, .ite (fun _ => .code _) fun _ => .ite (fun _ => .answer _ _) fun _ => .answer _ _⟩
  | tlReset => exact execTlReset_ends s
  | linkLoad => exact execLinkLoad_ends s
  | submitWrite => exact execSubmitWrite_ends s
  | submitRead => exact execSubmitRead_ends s
  | drain => exact absurd rfl hdrain
  | pendingCount => exact absurd rfl hpcount

end Sys2Proof.Machine
end

section
/-! PROOFS. The turns of the agents as chains of operations (spec/10_state.md R28, spec/43_translog.md R143), and the
obligations on what every step keeps (spec/10_state.md R32, R34, R38, R40, R42, R56, R117). -/

namespace Sys2Proof.Machine

/-! ### The drain step -/

/-- What a drain step's handling of its packet may do before it re-arms (R143): a chain of operations that leaves the RX
ring, STATUS and the drain's mode. -/
structure Consumes (s t : State) : Prop where
  ops : Ops s t
  rx : t.rx = s.rx
  status : t.status = s.status
  drainMode : t.drainMode = s.drainMode

theorem Consumes.refl (s : State) : Consumes s s := ⟨.refl, rfl, rfl, rfl⟩

theorem Consumes.release {s t : State} (h : Consumes s t) (j : Nat) : Consumes s (t.release j) := by
  obtain ⟨slots, pend, hr⟩ := release_frame t j
  exact ⟨h.ops.trans (release_ops t j), by rw [hr]; exact h.rx, by rw [hr]; exact h.status, by rw [hr]; exact h.drainMode⟩

/-- Counting the packet changes registers only. -/
theorem consumes_counted (s : State) (parseErrs unmatched longWarns busErrs : Word) :
    Consumes s
      { s with parseErrs := parseErrs, unmatched := unmatched, longWarns := longWarns, busErrs := busErrs } :=
  ⟨SameStores.ops ⟨rfl, rfl, rfl, rfl, rfl, rfl, rfl, rfl⟩, rfl, rfl, rfl⟩

theorem drainMatched_consumes {r : Parsed} {s : State} (hlen : r.payload.length = r.dlen.toNat) :
    Consumes s (drainMatched r s) := by
  refine Consumes.release ?_ _
  split
  · split
    · rename_i hr
      exact ⟨(Op.store (hlen ▸ hr)).ops, rfl, rfl, rfl⟩
    · exact consumes_counted s _ _ _ _
  · exact .refl s

theorem Consumes.trans {s t u : State} (h : Consumes s t) (h' : Consumes t u) : Consumes s u :=
  ⟨h.ops.trans h'.ops, h'.rx.trans h.rx, h'.status.trans h.status, h'.drainMode.trans h.drainMode⟩

theorem drainParsed_consumes {r : Parsed} {s : State} (hlen : r.payload.length = r.dlen.toNat) :
    Consumes s (drainParsed r s) := by
  have hlong : Consumes s (if r.long then { s with longWarns := s.longWarns + 1 } else s) := by
    split
    · exact consumes_counted s _ _ _ _
    · exact .refl s
  simp only [drainParsed]
  split
  · exact hlong.trans (consumes_counted _ _ _ _ _)
  · exact hlong.trans (drainMatched_consumes hlen)

theorem drainPacket_consumes (i : Nat) (s : State) : Consumes s (drainPacket i s) := by
  unfold drainPacket
  split
  · exact consumes_counted s _ _ _ _
  · split
    · exact consumes_counted s _ _ _ _
    · rename_i r hr
      exact drainParsed_consumes (payload_length hr)

/-- A drain step is a chain of operations, and either ends the drain or leaves STATUS as it was (R143). -/
theorem drainStep_ops (s : State) :
    Ops s (drainStep s) ∧ ((drainStep s).drainMode = .none ∨ (drainStep s).status = s.status) := by
  unfold drainStep
  split
  · split
    · exact ⟨(Ended.answer .ok s.pend).ops, .inl rfl⟩
    · exact ⟨(Ended.answer .ok s.drainN).ops, .inl rfl⟩
  · rename_i i hi
    obtain ⟨hops, hrx, hstatus, -⟩ :=
      drainPacket_consumes i { s with rxBytes := s.rxBytes + wordOfNat (s.rx.at i).size.toNat }
    have hrearmed := ((sameStores_rxBytes _ s).ops.trans hops).tail (.rxRearm (i := i) (by rw [hrx]; exact hi))
    exact ⟨hrearmed.tail (.registers ⟨rfl, rfl, rfl, rfl, rfl, rfl, rfl, rfl⟩), .inr hstatus⟩

/-! ### The turns -/

/-- A turn is a chain of operations that keeps a drain running only while the port is busy (R29, R30). -/
structure Turns (s t : State) : Prop where
  ops : Ops s t
  latch : LatchOk s → LatchOk t

theorem turns_of_drainMode_none {s t : State} (h : Ops s t) (hd : t.drainMode = .none) : Turns s t :=
  ⟨h, fun _ hne => absurd hd hne⟩

theorem turns_of_same_latch {s t : State} (h : Ops s t) (hd : t.drainMode = s.drainMode)
    (hb : s.status.busy = true → t.status.busy = true) : Turns s t :=
  ⟨h, fun hs hne => hb (hs (hd ▸ hne))⟩

/-- CORE never stops the machine, and its turn is a chain of operations (R28). -/
theorem coreTurn_turns (s : State) : ∃ t, coreTurn s = .next t ∧ Turns s t := by
  cases hb : s.status.busy with
  | false => exact ⟨s, coreTurn_idle hb, .refl, id⟩
  | true =>
    by_cases hd : s.drainMode = .none
    · cases hw : decode s.lcmd with
      | error e => exact ⟨_, coreTurn_reject hb hd hw, turns_of_drainMode_none (Ended.code _).ops rfl⟩
      | ok i =>
        rw [coreTurn_command hb hd hw]
        by_cases hi : i = .drain ∨ i = .pendingCount
        · have hstart : ∀ m, Turns s { s with drainMode := m, drainN := 0 } := fun m =>
            ⟨SameStores.ops ⟨rfl, rfl, rfl, rfl, rfl, rfl, rfl, rfl⟩, fun _ _ => hb⟩
          rcases hi with rfl | rfl
          · exact ⟨_, rfl, hstart _⟩
          · exact ⟨_, rfl, hstart _⟩
        · obtain ⟨t, ht, hend⟩ := exec_ends s (fun h => hi (.inl h)) (fun h => hi (.inr h))
          exact ⟨t, ht, turns_of_drainMode_none hend.ops hend.drainMode⟩
    · obtain ⟨hops, hmode | hstatus⟩ := drainStep_ops s
      · exact ⟨_, coreTurn_drain hb hd, turns_of_drainMode_none hops hmode⟩
      · exact ⟨_, coreTurn_drain hb hd, hops, fun _ _ => by rw [hstatus, hb]⟩

theorem linkTxStep_ops (s : State) : Ops s (linkTxStep s) := by
  cases hen : (s.tx.at s.tx.lptr.toNat).en with
  | false => rw [linkTxStep_waiting hen]
  | true =>
    rw [linkTxStep_frame, linkTxStep_tx hen]
    exact (Op.serve hen).ops.tail (.registers ⟨rfl, rfl, rfl, rfl, rfl, rfl, rfl, rfl⟩)

theorem linkRxStep_turns {s t : State} (h : linkRxStep s = .next t) : Turns s t := by
  obtain rfl | ⟨p, wire, -, hen, hp, rfl⟩ := linkRxStep_cases h
  · exact ⟨.refl, id⟩
  · exact turns_of_same_latch
      ((Op.receive hen hp).ops.tail (.registers ⟨rfl, rfl, rfl, rfl, rfl, rfl, rfl, rfl⟩)) rfl id

/-- What a host's act can do: observe, write a register, or store bytes that exist (R18, R44). -/
theorem hostStep_cases {act : HostAct} {s t : State} (h : hostStep act s = .next t) :
    (∃ regs mem, t = { s with hostRegs := regs, hostMem := mem }) ∨ (∃ v r, t = regWrite s v r) ∨
      ∃ a x, s.rangeOK a x.length = true ∧ t = s.memWrite a x := by
  cases act with
  | readReg addr width =>
    cases hr : windowReg s.cfg addr width with
    | error e => simp [hostStep, hr] at h
    | ok r => exact .inl ⟨_, s.hostMem, by simpa [hostStep, hr] using h.symm⟩
  | writeReg addr width v =>
    cases hr : windowReg s.cfg addr width with
    | error e => simp [hostStep, hr] at h
    | ok r => exact .inr (.inl ⟨v, r, by simpa [hostStep, hr] using h.symm⟩)
  | readMem addr n =>
    cases hr : s.rangeOK addr n with
    | false => simp [hostStep, hr] at h
    | true => exact .inl ⟨s.hostRegs, _, by simpa [hostStep, hr] using h.symm⟩
  | writeMem addr x =>
    cases hr : s.rangeOK addr x.length with
    | false => simp [hostStep, hr] at h
    | true => exact .inr (.inr ⟨addr, x, hr, by simpa [hostStep, hr] using h.symm⟩)

/-- A host's register write never frees the command port (R27). -/
theorem regWrite_busy {s : State} (hb : s.status.busy = true) (v : Word) (r : Reg) :
    (regWrite s v r).status.busy = true := by
  cases r <;> simp [regWrite, acceptCommand, hb]

theorem hostStep_turns {act : HostAct} {s t : State} (h : hostStep act s = .next t) : Turns s t := by
  obtain ⟨regs, mem, rfl⟩ | ⟨v, r, rfl⟩ | ⟨a, x, hr, rfl⟩ := hostStep_cases h
  · exact turns_of_same_latch (SameStores.ops ⟨rfl, rfl, rfl, rfl, rfl, rfl, rfl, rfl⟩) rfl id
  · refine turns_of_same_latch (SameStores.ops ?_) (by rw [regWrite_frame]) fun hb => regWrite_busy hb v r
    rw [regWrite_frame]
    exact ⟨rfl, rfl, rfl, rfl, rfl, rfl, rfl, rfl⟩
  · exact turns_of_same_latch (Op.store hr).ops rfl id

theorem takeTurn_turns {turn : Turn} {s t : State} (h : takeTurn turn s = .next t) : Turns s t := by
  cases turn with
  | host act => exact hostStep_turns h
  | core =>
    obtain ⟨u, hu, hturn⟩ := coreTurn_turns s
    obtain rfl : u = t := by simpa [hu] using h
    exact hturn
  | linkTx =>
    obtain rfl : linkTxStep s = t := by simpa using h
    exact turns_of_same_latch (linkTxStep_ops s) (by rw [linkTxStep_frame]) (by rw [linkTxStep_frame]; exact id)
  | linkRx => exact linkRxStep_turns h
  | arrive p =>
    obtain rfl : arrival p s = t := by simpa [arrival] using h
    exact turns_of_same_latch (SameStores.ops ⟨rfl, rfl, rfl, rfl, rfl, rfl, rfl, rfl⟩) rfl id
  | reset =>
    obtain rfl : resetEvent s = t := by simpa using h
    exact turns_of_drainMode_none Op.reset.ops rfl

theorem step_turns {s t : State} (h : step s = .next t) : Turns s t := by
  have hturn := takeTurn_turns h
  have hsched : SameStores s (nextTurn s).2 := by
    rw [nextTurn_frame]; exact ⟨rfl, rfl, rfl, rfl, rfl, rfl, rfl, rfl⟩
  refine ⟨hsched.ops.trans hturn.ops, fun hs => hturn.latch ?_⟩
  rw [nextTurn_frame]
  exact hs

/-! ### The invariants, operation by operation -/

theorem Op.cfg_eq {s t : State} (h : Op s t) : t.cfg = s.cfg := by
  cases h with
  | registers h => exact h.cfg
  | _ => rfl

/-- An invariant that every operation keeps under a well-formed configuration is kept by every step. -/
theorem step_keeps {P : State → Prop} (hop : ∀ s t, Op s t → s.cfg.wf = true → P s → P t) {s t : State}
    (hwf : s.cfg.wf = true) (hs : P s) (h : step s = .next t) : P t := by
  have hkeep := (step_turns h).ops.keeps (P := fun u => u.cfg.wf = true ∧ P u)
    fun u v ho ⟨hw, hu⟩ => ⟨ho.cfg_eq ▸ hw, hop u v ho hw hu⟩
  exact (hkeep ⟨hwf, hs⟩).2

theorem Op.txRingOk {s t : State} (h : Op s t) (hwf : s.cfg.wf = true) (hs : TxRingOk s) : TxRingOk t := by
  obtain ⟨⟨hn, hn'⟩, -⟩ := bounds_of_wf hwf
  cases h with
  | registers h => exact hs.congr h.cfg h.tx
  | txInit => exact hs.txInit hn
  | txReclaim => exact hs.txReclaim
  | txFill hncl hhd hx => exact hs.txFill hwf hncl hhd hx
  | serve hen => exact hs.serve hn' hen
  | reset => exact (txRingOk_resetWith hn).congr rfl rfl
  | store | packet | linkLoad | rxInit | rxRearm | grab | release | receive => exact hs.congr rfl rfl

theorem Op.rxRingOk {s t : State} (h : Op s t) (hwf : s.cfg.wf = true) (hs : RxRingOk s) : RxRingOk t := by
  obtain ⟨-, ⟨hn, -⟩, -⟩ := bounds_of_wf hwf
  cases h with
  | registers h => exact hs.congr h.cfg h.rx
  | rxInit => exact hs.rxInit hn _
  | rxRearm hi => exact hs.rxRearm hi
  | receive hen => exact hs.receive hwf hen _
  | reset => exact (rxRingOk_resetWith hn).congr rfl rfl
  | store | packet | linkLoad | txInit | txReclaim | txFill | grab | release | serve => exact hs.congr rfl rfl

theorem Op.pktOk_linkOk {s t : State} (h : Op s t) (hs : PktOk s ∧ LinkOk s) : PktOk t ∧ LinkOk t := by
  obtain ⟨hp, hl⟩ := hs
  cases h with
  | registers h => exact ⟨hp.congr h.cfg h.pkt, hl.congr h.cfg h.link⟩
  | packet h => exact ⟨h hp, hl⟩
  | linkLoad => exact ⟨hp.congr rfl rfl, hp.paths⟩
  | reset => exact ⟨(pktOk_resetWith s.cfg).congr rfl rfl, linkOk_resetWith s.cfg⟩
  | store | txInit | txReclaim | txFill | rxInit | rxRearm | grab | release | serve | receive =>
    exact ⟨hp.congr rfl rfl, hl⟩

theorem Op.slotsOk {s t : State} (h : Op s t) (hwf : s.cfg.wf = true) (hs : SlotsOk s) : SlotsOk t := by
  cases h with
  | registers h => exact hs.congr h.cfg h.slots h.pend
  | grab hj hfree => exact hs.grab hwf hj hfree _ _
  | release hj hused => exact hs.release hj hused
  | reset => exact (slotsOk_resetWith s.cfg).congr rfl rfl rfl
  | store | packet | linkLoad | txInit | txReclaim | txFill | rxInit | rxRearm | serve | receive =>
    exact hs.congr rfl rfl rfl

/-! ### The obligations -/

/-- Settles O57: of the operations a step is a chain of, five write the TX ring, and each keeps its order. -/
theorem txRingInvariantKept : Obligations.TxRingInvariantKept :=
  fun _ _ hs ht => step_keeps (fun _ _ ho hwf => ho.txRingOk hwf) hs.config hs.tx ht

/-- Settles O58: as for the TX ring, for the operations that write the RX ring. -/
theorem rxRingInvariantKept : Obligations.RxRingInvariantKept :=
  fun _ _ hs ht => step_keeps (fun _ _ ho hwf => ho.rxRingOk hwf) hs.config hs.rx ht

/-- Settles O56: PKT's invariant gives L's at LINK_LOAD, so the two are kept together. -/
theorem packetInvariantKept : Obligations.PacketInvariantKept :=
  fun _ _ hs ht =>
    step_keeps (P := fun u => PktOk u ∧ LinkOk u) (fun _ _ ho _ => ho.pktOk_linkOk) hs.config ⟨hs.pkt, hs.link⟩ ht

/-- Settles O59: taking and freeing a slot move PEND by one with the count of used slots. -/
theorem slotInvariantKept : Obligations.SlotInvariantKept := by
  intro s t hs ht
  have hslots : SlotsOk t := step_keeps (fun _ _ ho hwf => ho.slotsOk hwf) hs.config hs.slots ht
  exact ⟨hslots, hslots.count, (step_turns ht).latch hs.latch⟩

/-- Settles O13: every other command ends, and the two that start a drain write its mode and count alone. -/
theorem everyCommandCompletes : Obligations.EveryCommandCompletes := by
  refine fun i s => ⟨fun hdrain hpcount => ?_, ?_⟩
  · obtain ⟨t, ht, hend⟩ := exec_ends s hdrain hpcount
    exact ⟨t, ht, hend.busy, hend.drainMode, hend.ovr⟩
  · rintro (rfl | rfl)
    · exact ⟨_, rfl, rfl, by simp, rfl⟩
    · exact ⟨_, rfl, rfl, by simp, rfl⟩

/-- Settles O54: the invariant's parts at reset, one by one. -/
theorem resetMeetsInvariant : Obligations.ResetMeetsInvariant := by
  refine ⟨fun c hwf => ?_, rfl, by decide⟩
  obtain ⟨⟨htx, -⟩, ⟨hrx, -⟩, -⟩ := bounds_of_wf hwf
  exact
    { config := hwf, memory := ⟨Memory.wf_nil, by simp [State.resetWith]⟩, pkt := pktOk_resetWith c
      link := linkOk_resetWith c, tx := txRingOk_resetWith htx, rx := rxRingOk_resetWith hrx
      slots := slotsOk_resetWith c, latch := fun h => absurd rfl h }

/-- Settles O33: the invariant bounds every length by what has been written to its buffer. -/
theorem arenaNeverObserved : Obligations.ArenaNeverObserved := by
  refine fun s hs => ⟨fun i hen => ?_, fun i => bufRead_written _ _ _ (hs.rx.lengths i)⟩
  obtain ⟨-, hhdr, hdata⟩ := hs.tx.lengths i hen
  exact ⟨bufRead_written _ _ _ hhdr, bufRead_written _ _ _ hdata⟩

end Sys2Proof.Machine
end

section
/-! PROOFS. The register window's words as sums of their fields (spec/10_state.md R18 to R26, R37), and what a host access
to each register does. -/

namespace Sys2Proof.Machine

/-! ### Words made of fields -/

theorem toNat_fieldAt {n : Nat} (v : BitVec n) (lo : Nat) (h : lo + n ≤ 32 := by decide) :
    (fieldAt v lo).toNat = 2 ^ lo * v.toNat := by
  have hv : v.toNat < 2 ^ n := v.isLt
  have hpow : 2 ^ lo * 2 ^ n ≤ 2 ^ 32 := by rw [← Nat.pow_add]; exact Nat.pow_le_pow_right (by decide) h
  have hfit : 2 ^ lo * v.toNat < 2 ^ 32 := (Nat.mul_lt_mul_of_pos_left hv (Nat.two_pow_pos lo)).trans_le hpow
  have hn : v.toNat < 2 ^ 32 := hv.trans_le (Nat.pow_le_pow_right (by decide) (by omega))
  rw [fieldAt, BitVec.toNat_shiftLeft, BitVec.toNat_setWidth, Nat.mod_eq_of_lt hn, Nat.shiftLeft_eq, Nat.mul_comm,
    Nat.mod_eq_of_lt hfit]

/-- A field above the bits a word already uses adds its value at its place. -/
theorem toNat_or_fieldAt {w : Word} {m n : Nat} (hw : w.toNat = m) (v : BitVec n) (lo : Nat)
    (h : lo + n ≤ 32 := by decide) (hm : m < 2 ^ lo := by omega) :
    (w ||| fieldAt v lo).toNat = m + 2 ^ lo * v.toNat := by
  rw [BitVec.toNat_or, toNat_fieldAt v lo h, hw, Nat.or_comm, ← Nat.two_pow_add_eq_or_of_lt hm, Nat.add_comm]

theorem toNat_flagAt (b : Bool) (i : Nat) (h : i < 32 := by decide) : (flagAt b i).toNat = 2 ^ i * b.toNat := by
  rw [flagAt, toNat_fieldAt _ i h, BitVec.toNat_ofBool]

theorem toNat_or_flagAt {w : Word} {m : Nat} (hw : w.toNat = m) (b : Bool) (i : Nat) (h : i < 32 := by decide)
    (hm : m < 2 ^ i := by omega) : (w ||| flagAt b i).toNat = m + 2 ^ i * b.toNat := by
  rw [flagAt, toNat_or_fieldAt hw _ i h hm, BitVec.toNat_ofBool]

theorem or_reverse (a b c : Word) : a ||| b ||| c = c ||| b ||| a := by ac_rfl

/-! ### The host-visible registers made of fields (R20, R22, R23) -/

theorem toNat_statusWord (t : Status) :
    t.word.toNat = t.code.value.toNat + 2 ^ 8 * t.busy.toNat + 2 ^ 9 * t.warnLong.toNat + 2 ^ 10 * t.ovr.toNat := by
  have hcode := t.code.value.isLt
  have hb := t.busy.toNat_le
  have hw := t.warnLong.toNat_le
  have hword : t.word = fieldAt t.code.value 0 ||| flagAt t.busy 8 ||| flagAt t.warnLong 9 ||| flagAt t.ovr 10 := by
    unfold Status.word; ac_rfl
  have hsum := toNat_or_flagAt (toNat_or_flagAt (toNat_or_flagAt (toNat_fieldAt t.code.value 0) t.busy 8)
    t.warnLong 9) t.ovr 10
  rw [hword, hsum]
  omega

theorem toNat_ctrlWord (c : Ctrl) : c.word.toNat = c.txie.toNat + 2 * c.rxie.toNat + 4 * c.pcrc.toNat := by
  have htx := c.txie.toNat_le
  have hrx := c.rxie.toNat_le
  have hsum := toNat_or_flagAt (toNat_or_flagAt (toNat_flagAt c.txie 0) c.rxie 1) c.pcrc 2
  rw [Ctrl.word, or_reverse, hsum]
  omega

theorem toNat_irqWord (q : IrqStat) : q.word.toNat = q.txi.toNat + 2 * q.rxi.toNat := by
  have htx := q.txi.toNat_le
  have hsum := toNat_or_flagAt (toNat_flagAt q.txi 0) q.rxi 1
  rw [IrqStat.word, BitVec.or_comm, hsum]
  omega

/-! ### The capability words (R26) -/

theorem toNat_ofNat_of_le {n x : Nat} (h : x ≤ 2 ^ n - 1) : (BitVec.ofNat n x).toNat = x := by
  have := Nat.two_pow_pos n
  rw [BitVec.toNat_ofNat, Nat.mod_eq_of_lt (by omega)]

theorem toNat_capWord0 {c : Config} (h : c.wf = true) : (capWord0 c).toNat = c.nTx + 2 ^ 16 * c.nRx := by
  obtain ⟨⟨-, htx⟩, ⟨-, hrx⟩, -⟩ := bounds_of_wf h
  have hsum := toNat_or_fieldAt (toNat_fieldAt (BitVec.ofNat 16 c.nTx) 0) (BitVec.ofNat 16 c.nRx) 16
  rw [capWord0, BitVec.or_comm, hsum, toNat_ofNat_of_le htx, toNat_ofNat_of_le hrx]
  omega

theorem toNat_capWord1 {c : Config} (h : c.wf = true) :
    (capWord1 c).toNat = c.cSlots + 2 ^ 16 * c.maxPathLen + 2 ^ 24 * c.txHdrBuf := by
  obtain ⟨-, -, hslots, hpath, hhdr, -⟩ := bounds_of_wf h
  have hsum := toNat_or_fieldAt (toNat_or_fieldAt (toNat_fieldAt (BitVec.ofNat 16 c.cSlots) 0)
    (BitVec.ofNat 8 c.maxPathLen) 16) (BitVec.ofNat 8 c.txHdrBuf) 24
  rw [capWord1, or_reverse, hsum, toNat_ofNat_of_le hslots, toNat_ofNat_of_le hpath, toNat_ofNat_of_le hhdr]
  omega

theorem toNat_capWord2 {c : Config} (h : c.wf = true) :
    (capWord2 c).toNat = c.txDataBuf + 2 ^ 24 * (if c.dlenOmit = .writeCmdNoReply then 1 else 0) +
      2 ^ 25 * c.replyRsvd.toNat := by
  obtain ⟨-, -, -, -, -, hdata, -⟩ := bounds_of_wf h
  have hword : capWord2 c = fieldAt (BitVec.ofNat 24 c.txDataBuf) 0 |||
      flagAt (decide (c.dlenOmit = .writeCmdNoReply)) 24 ||| flagAt c.replyRsvd 25 := by
    rw [capWord2, or_reverse]
    cases c.dlenOmit <;> rfl
  have hflag := (decide (c.dlenOmit = .writeCmdNoReply)).toNat_le
  have hbit : (decide (c.dlenOmit = .writeCmdNoReply)).toNat = if c.dlenOmit = .writeCmdNoReply then 1 else 0 := by
    cases c.dlenOmit <;> rfl
  have hsum := toNat_or_flagAt (toNat_or_flagAt (toNat_fieldAt (BitVec.ofNat 24 c.txDataBuf) 0)
    (decide (c.dlenOmit = .writeCmdNoReply)) 24) c.replyRsvd 25
  rw [hword, hsum, toNat_ofNat_of_le hdata, hbit, Nat.pow_zero, Nat.one_mul]

theorem toNat_capWord3 {c : Config} (h : c.wf = true) : (capWord3 c).toNat = c.rxBuf := by
  obtain ⟨-, -, -, -, -, -, hrx⟩ := bounds_of_wf h
  rw [capWord3, toNat_fieldAt _ 0, toNat_ofNat_of_le hrx, Nat.pow_zero, Nat.one_mul]

/-! ### The packed descriptor words (R37) -/

theorem toNat_txDesc_packed0 (d : TxDesc) :
    (d.packed false).toNat = d.en.toNat + 2 * d.wr.toNat + 4 * d.ie.toNat + 8 * d.hc.toNat + 16 * d.dc.toNat +
      2 ^ 8 * d.ncl.toNat + 2 ^ 16 * d.hlen.toNat := by
  have hen := d.en.toNat_le
  have hwr := d.wr.toNat_le
  have hie := d.ie.toNat_le
  have hhc := d.hc.toNat_le
  have hdc := d.dc.toNat_le
  have hflags := toNat_or_flagAt (toNat_or_flagAt (toNat_or_flagAt (toNat_or_flagAt (toNat_flagAt d.en 0) d.wr 1) d.ie 2)
    d.hc 3) d.dc 4
  have hsum := toNat_or_fieldAt (toNat_or_fieldAt hflags d.ncl 8) d.hlen 16
  rw [TxDesc.packed, if_neg (by simp), hsum]
  omega

theorem toNat_rxDesc_packed0 (d : RxDesc) :
    (d.packed false).toNat = d.en.toNat + 2 * d.wr.toNat + 4 * d.ie.toNat + 32 * d.tr.toNat := by
  have hen := d.en.toNat_le
  have hwr := d.wr.toNat_le
  have hie := d.ie.toNat_le
  have hsum := toNat_or_flagAt (toNat_or_flagAt (toNat_or_flagAt (toNat_flagAt d.en 0) d.wr 1) d.ie 2) d.tr 5
  rw [RxDesc.packed, if_neg (by simp), hsum]
  omega

/-! ### Host writes to read-only offsets -/

/-- The read-only and the reserved offsets of the window (R18). -/
theorem regWrite_readOnly (s : State) (v : Word) {off : Nat} (h4 : off % 4 = 0)
    (hro : off = 0x04 ∨ off = 0x08 ∨ off = 0x28 ∨ 0x3C ≤ off) : regWrite s v (regAt off) = s := by
  by_cases hres : 0x4C ≤ off
  · rw [regAt_reserved hres]; rfl
  · have hnamed : off = 0x04 ∨ off = 0x08 ∨ off = 0x28 ∨ off = 0x3C ∨ off = 0x40 ∨ off = 0x44 ∨ off = 0x48 := by omega
    rcases hnamed with rfl | rfl | rfl | rfl | rfl | rfl | rfl <;> rfl

theorem hostStep_writeReadOnly (s : State) (v : Word) {off : Nat} (hoff : off < 256) (h4 : off % 4 = 0)
    (hro : off = 0x04 ∨ off = 0x08 ∨ off = 0x28 ∨ 0x3C ≤ off) :
    hostStep (.writeReg (s.cfg.mmioBase + off) .w32 v) s = .next s := by
  rw [hostStep_writeReg s v hoff h4, regWrite_readOnly s v h4 hro]

/-! ### The obligations -/

/-- Settles O10: each word is a sum of fields that do not overlap, and the capability offsets are read-only. -/
theorem capabilityAndDescriptorWords : Obligations.CapabilityAndDescriptorWords := by
  refine ⟨fun c h => ⟨toNat_capWord0 h, toNat_capWord1 h, toNat_capWord2 h, toNat_capWord3 h⟩,
    fun s k v hk => ⟨?_, hostStep_writeReadOnly s v (by omega) (by omega) (by omega)⟩,
    fun d => ⟨toNat_txDesc_packed0 d, ?_⟩, fun d => ⟨toNat_rxDesc_packed0 d, ?_⟩⟩
  · obtain rfl | rfl | rfl | rfl : k = 0 ∨ k = 1 ∨ k = 2 ∨ k = 3 := by omega
    all_goals rfl
  · rw [TxDesc.packed, if_pos rfl, toNat_fieldAt _ 0, Nat.pow_zero, Nat.one_mul]
  · rw [RxDesc.packed, if_pos rfl, toNat_fieldAt _ 0, Nat.pow_zero, Nat.one_mul]

/-- Settles O11: the table of R18, offset by offset. -/
theorem hostRegisterAccess : Obligations.HostRegisterAccess := by
  refine fun s => ⟨fun off hoff h4 => hostStep_readReg s hoff h4, ?reads, fun v => ?writes,
    fun off width v hoff hbad => ?refused⟩
  case reads =>
    exact ⟨rfl, toNat_statusWord _, rfl, rfl, rfl, rfl, toNat_ctrlWord _, toNat_irqWord _, rfl, rfl, rfl, rfl, rfl, rfl, rfl,
      rfl, rfl, rfl, rfl, fun off hoff => by rw [regAt_reserved hoff]; rfl⟩
  case writes =>
    have hwrite : ∀ off, off < 256 → off % 4 = 0 →
        hostStep (.writeReg (s.cfg.mmioBase + off) .w32 v) s = .next (regWrite s v (regAt off)) :=
      fun off hoff h4 => hostStep_writeReg s v hoff h4
    exact ⟨hwrite 0x0C (by decide) rfl, hwrite 0x10 (by decide) rfl, hwrite 0x14 (by decide) rfl,
      hwrite 0x18 (by decide) rfl, hwrite 0x1C (by decide) rfl, hwrite 0x20 (by decide) rfl, hwrite 0x24 (by decide) rfl,
      hwrite 0x2C (by decide) rfl, hwrite 0x30 (by decide) rfl, hwrite 0x34 (by decide) rfl, hwrite 0x38 (by decide) rfl,
      fun off hoff h4 hro => hostStep_writeReadOnly s v hoff h4 hro⟩
  case refused => simp only [hostStep, windowReg_misformed s.cfg hoff hbad, and_self]

end Sys2Proof.Machine
end

section
/-! PROOFS. The command port (spec/10_state.md R27, R29): CORE neither reads nor writes ARG0, ARG1 and ARG2. -/

namespace Sys2Proof.Machine

/-- The state with the host's operand registers replaced (R18). -/
def State.withArgs (x y z : Word) (s : State) : State := { s with arg0 := x, arg1 := y, arg2 := z }

section

variable {x y z : Word} {s s' a a' b b' : State}

@[simp] theorem withArgs_cfg : (s.withArgs x y z).cfg = s.cfg := rfl
@[simp] theorem withArgs_ctrl : (s.withArgs x y z).ctrl = s.ctrl := rfl
@[simp] theorem withArgs_drainMode : (s.withArgs x y z).drainMode = s.drainMode := rfl
@[simp] theorem withArgs_larg0 : (s.withArgs x y z).larg0 = s.larg0 := rfl
@[simp] theorem withArgs_larg1 : (s.withArgs x y z).larg1 = s.larg1 := rfl
@[simp] theorem withArgs_pkt : (s.withArgs x y z).pkt = s.pkt := rfl
@[simp] theorem withArgs_rx : (s.withArgs x y z).rx = s.rx := rfl
@[simp] theorem withArgs_slots : (s.withArgs x y z).slots = s.slots := rfl
@[simp] theorem withArgs_a0 : (s.withArgs x y z).a0 = s.a0 := rfl
@[simp] theorem withArgs_a1 : (s.withArgs x y z).a1 = s.a1 := rfl
@[simp] theorem withArgs_memRead (k n : Nat) : (s.withArgs x y z).memRead k n = s.memRead k n := rfl

/-! ### The replacement under choices and shared operations -/

theorem next_withArgs (h : a' = a.withArgs x y z) :
    (.next a' : Host.Outcome State Fault Refusal) = .next (a.withArgs x y z) := by rw [h]

theorem ite_withArgs {p : Prop} [Decidable p] (ha : a' = a.withArgs x y z) (hb : b' = b.withArgs x y z) :
    (if p then a' else b') = (if p then a else b).withArgs x y z := by
  rw [ha, hb, apply_ite (State.withArgs x y z)]

theorem grab_withArgs (hd : Bool) (a : Word) :
    (s.withArgs x y z).grab hd a = (s.grab hd a).map fun p => (p.1, p.2.withArgs x y z) := by
  simp only [State.grab, withArgs_slots]
  cases s.slots.findIdx? fun e => !e.used <;> rfl

theorem release_withArgs (h : s' = s.withArgs x y z) (j : Nat) : s'.release j = (s.release j).withArgs x y z := by
  subst h
  exact ite_withArgs rfl rfl

theorem releaseAll_withArgs : (s.withArgs x y z).releaseAll = s.releaseAll.withArgs x y z := by
  have hfold : ∀ (l : List Nat) (u : State),
      l.foldl State.release (u.withArgs x y z) = (l.foldl State.release u).withArgs x y z := by
    intro l
    induction l with
    | nil => exact fun _ => rfl
    | cons j l ih => intro u; rw [List.foldl_cons, List.foldl_cons, release_withArgs rfl, ih]
  exact hfold _ s

theorem warnLong_withArgs (h : s' = s.withArgs x y z) (long : Bool) :
    s'.warnLong long = (s.warnLong long).withArgs x y z := by
  subst h
  exact ite_withArgs rfl rfl

theorem finish_withArgs (h : s' = s.withArgs x y z) (c : Code) : finish c s' = (finish c s).withArgs x y z := by
  subst h
  rfl

theorem finishWith_withArgs (h : s' = s.withArgs x y z) (c : Code) (v : Word) :
    finishWith c v s' = (finishWith c v s).withArgs x y z := by
  subst h
  rfl

/-! ### The drain step -/

theorem drainMatched_withArgs (h : s' = s.withArgs x y z) (r : Parsed) :
    drainMatched r s' = (drainMatched r s).withArgs x y z := by
  subst h
  refine release_withArgs ?_ _
  exact ite_withArgs (ite_withArgs rfl rfl) rfl

theorem drainParsed_withArgs (r : Parsed) : drainParsed r (s.withArgs x y z) = (drainParsed r s).withArgs x y z := by
  cases hlong : r.long
  all_goals
    simp only [drainParsed, hlong, if_true, Bool.false_eq_true, if_false]
    exact ite_withArgs rfl (drainMatched_withArgs (by rfl) r)

theorem drainPacket_withArgs (h : s' = s.withArgs x y z) (i : Nat) :
    drainPacket i s' = (drainPacket i s).withArgs x y z := by
  subst h
  simp only [drainPacket, withArgs_cfg, withArgs_ctrl, withArgs_rx]
  refine ite_withArgs rfl ?_
  cases prs s.cfg s.ctrl.pcrc (s.rx.bytes i (s.rx.at i).size.toNat) with
  | error e => rfl
  | ok r => exact drainParsed_withArgs r

theorem drainStep_withArgs : drainStep (s.withArgs x y z) = (drainStep s).withArgs x y z := by
  simp only [drainStep, withArgs_rx, withArgs_drainMode]
  cases rxHead s.rx with
  | none => cases s.drainMode <;> rfl
  | some i =>
    have hp := drainPacket_withArgs (x := x) (y := y) (z := z) (i := i)
      (s := { s with rxBytes := s.rxBytes + wordOfNat (s.rx.at i).size.toNat }) rfl
    exact congrArg (fun u => { u.rxRearm with drainN := u.rxRearm.drainN + 1 }) hp

end

/-! ### The commands -/

/-- A meaning does not read the operand registers and leaves them alone: on states that differ in them only it answers
states that differ in them only. -/
def IgnoresArgs (f : State → Host.Outcome State Fault Refusal) : Prop :=
  ∀ (s : State) (x y z : Word), ∃ t, f s = .next t ∧ f (s.withArgs x y z) = .next (t.withArgs x y z)

theorem ignoresArgs_execPktGet (sel : BitVec 4) (idx : Byte) : IgnoresArgs (execPktGet sel idx) := by
  intro s x y z
  refine ⟨_, rfl, next_withArgs ?_⟩
  rw [withArgs_pkt]
  cases pktField s.pkt sel idx <;> rfl

theorem ignoresArgs_execParse : IgnoresArgs execParse := by
  intro s x y z
  refine ⟨_, rfl, next_withArgs (ite_withArgs rfl ?_)⟩
  simp only [withArgs_cfg, withArgs_ctrl, withArgs_a0, withArgs_a1, withArgs_memRead]
  cases prs s.cfg s.ctrl.pcrc (s.memRead s.a0 s.a1) with
  | error e => rfl
  | ok r =>
    exact ite_withArgs rfl (finishWith_withArgs (warnLong_withArgs (by rfl) r.long) _ _)

theorem ignoresArgs_execRxPoll : IgnoresArgs execRxPoll := by
  intro s x y z
  refine ⟨_, rfl, next_withArgs ?_⟩
  rw [withArgs_rx]
  cases rxHead s.rx <;> rfl

theorem ignoresArgs_execRxFetch : IgnoresArgs execRxFetch := by
  intro s x y z
  refine ⟨_, rfl, next_withArgs ?_⟩
  rw [withArgs_rx]
  cases rxHead s.rx with
  | none => rfl
  | some i => exact ite_withArgs rfl rfl

theorem ignoresArgs_execRxDrop : IgnoresArgs execRxDrop := by
  intro s x y z
  refine ⟨_, rfl, next_withArgs ?_⟩
  rw [withArgs_rx]
  cases rxHead s.rx <;> rfl

theorem ignoresArgs_execDescRead (idx : BitVec 16) (ring : Ring) (word : Bool) :
    IgnoresArgs (execDescRead idx ring word) := by
  intro s x y z
  cases ring with
  | tx => exact ⟨_, rfl, next_withArgs (ite_withArgs rfl rfl)⟩
  | rx => exact ⟨_, rfl, next_withArgs (ite_withArgs rfl rfl)⟩

theorem ignoresArgs_execTlGrab (hd : Bool) : IgnoresArgs (execTlGrab hd) := by
  intro s x y z
  refine ⟨_, rfl, next_withArgs ?_⟩
  rw [grab_withArgs, withArgs_larg0]
  cases s.grab hd s.larg0 <;> rfl

theorem ignoresArgs_execSubmitWrite : IgnoresArgs execSubmitWrite := by
  intro s x y z
  refine ⟨_, rfl, next_withArgs (ite_withArgs rfl (ite_withArgs rfl (ite_withArgs rfl ?_)))⟩
  rw [grab_withArgs]
  cases s.grab false 0 with
  | none => rfl
  | some p => exact ite_withArgs rfl rfl

theorem ignoresArgs_execSubmitRead : IgnoresArgs execSubmitRead := by
  intro s x y z
  refine ⟨_, rfl, next_withArgs (ite_withArgs rfl (ite_withArgs rfl (ite_withArgs rfl (ite_withArgs rfl ?_))))⟩
  rw [grab_withArgs, withArgs_larg1]
  cases s.grab true s.larg1 with
  | none => rfl
  | some p => exact ite_withArgs rfl rfl

theorem exec_ignoresArgs (i : Instr) : IgnoresArgs (exec i) := by
  intro s x y z
  cases i with
  | pktGet sel idx => exact ignoresArgs_execPktGet sel idx s x y z
  | parse => exact ignoresArgs_execParse s x y z
  | rxPoll => exact ignoresArgs_execRxPoll s x y z
  | rxFetch => exact ignoresArgs_execRxFetch s x y z
  | rxDrop => exact ignoresArgs_execRxDrop s x y z
  | descRead idx ring word => exact ignoresArgs_execDescRead idx ring word s x y z
  | tlGrab hd => exact ignoresArgs_execTlGrab hd s x y z
  | submitWrite => exact ignoresArgs_execSubmitWrite s x y z
  | submitRead => exact ignoresArgs_execSubmitRead s x y z
  | tlReset => exact ⟨_, rfl, next_withArgs (finish_withArgs releaseAll_withArgs _)⟩
  | tlRelease id => exact ⟨_, rfl, next_withArgs (finish_withArgs (release_withArgs rfl _) _)⟩
  | pktSetPath | pktSetRpath | serialize | tlQuery =>
    exact ⟨_, rfl, next_withArgs (ite_withArgs rfl (ite_withArgs rfl rfl))⟩
  | txEnqueue =>
    exact ⟨_, rfl, next_withArgs (ite_withArgs rfl (ite_withArgs rfl (ite_withArgs rfl (ite_withArgs rfl rfl))))⟩
  | crc8 | pktSetCmd | pktSetDlen | hdrSize => exact ⟨_, rfl, next_withArgs (ite_withArgs rfl rfl)⟩
  | pktClear | pktSetDst | pktSetSrc | pktSetKey | pktSetReply | pktSetTid | pktSetAddr | txInit | rxInit | ringStat |
    linkLoad | drain | pendingCount => exact ⟨_, rfl, rfl⟩

theorem coreTurn_ignoresArgs : IgnoresArgs coreTurn := by
  intro s x y z
  cases hb : s.status.busy with
  | false => exact ⟨s, coreTurn_idle hb, coreTurn_idle hb⟩
  | true =>
    by_cases hd : s.drainMode = .none
    · cases hw : decode s.lcmd with
      | error e => exact ⟨_, coreTurn_reject hb hd hw, coreTurn_reject (s := s.withArgs x y z) hb hd hw⟩
      | ok i =>
        rw [coreTurn_command hb hd hw, coreTurn_command (s := s.withArgs x y z) hb hd hw]
        exact exec_ignoresArgs i s x y z
    · refine ⟨_, coreTurn_drain hb hd, ?_⟩
      rw [coreTurn_drain (s := s.withArgs x y z) hb hd, drainStep_withArgs]

/-- Settles O12: a write to CMD by its two cases; CORE's turn by what each command and the drain step do with the operand
registers replaced. -/
theorem commandPort : Obligations.CommandPort := by
  refine ⟨fun s w => ?_, fun _ _ => rfl, coreTurn_ignoresArgs⟩
  have hwrite : hostStep (.writeReg s.cfg.mmioBase .w32 w) s = .next (acceptCommand w s) :=
    hostStep_writeReg s w (off := 0) (by decide) rfl
  exact ⟨fun hb => by simp [hwrite, acceptCommand, hb], fun hb => by simp [hwrite, acceptCommand, hb]⟩

end Sys2Proof.Machine
end

section
/-! PROOFS. Local memory (spec/20_memory.md R44 to R48): it reads back what was written, RangeOK in words, and every step
keeps the canonical form and lists only bytes that exist. -/

namespace Sys2Proof.Machine

/-! ### Reading back and RangeOK -/

/-- The range just written reads as the bytes written there (R45, R46). -/
theorem Memory.read_write {m : List Host.Cell} (hm : Memory.wf m) (a : Nat) (s : List Byte) :
    Memory.read (Memory.write m a s) a s.length = s := by
  refine List.ext_getElem (by simp) fun k _ hk => ?_
  simp [Memory.read, Memory.readByte_write hm, byteAt, hk]

theorem windowOk_of_wf {c : Config} (h : c.wf = true) : c.windowOk = true := by
  simp only [Config.wf, Bool.and_eq_true] at h
  exact h.2

/-- A byte of a range that passes RangeOK exists. -/
theorem isMapped_of_rangeOK {c : Config} {a n x : Nat} (h : rangeOK c a n = true) (hax : a ≤ x) (hxn : x < a + n) :
    x < 2 ^ 32 ∧ isMapped c x = true := by
  obtain rfl | ⟨hwrap, hmapped⟩ := (rangeOK_iff c a n).mp h
  · omega
  · exact ⟨by omega, hmapped x hax hxn⟩

/-! ### The invariant -/

theorem MemoryOk.congr {s t : State} (h : MemoryOk s) (hc : t.cfg = s.cfg) (hm : t.lmem = s.lmem) : MemoryOk t :=
  ⟨hm ▸ h.canonical, by rw [hm, hc]; exact h.exist⟩

/-- A MemWrite that RangeOK allows lists only bytes that exist (R44, R46, R47). -/
theorem MemoryOk.memWrite {s : State} (h : MemoryOk s) {a : Nat} {x : List Byte} (hr : s.rangeOK a x.length = true) :
    MemoryOk (s.memWrite a x) := by
  refine ⟨Memory.write_wf h.canonical a x, fun e he => ?_⟩
  obtain hold | ⟨hlo, hhi⟩ := Memory.mem_write he
  · exact h.exist e hold
  · exact isMapped_of_rangeOK hr hlo hhi

theorem Op.memoryOk {s t : State} (h : Op s t) (hs : MemoryOk s) : MemoryOk t := by
  cases h with
  | registers h => exact hs.congr h.cfg h.lmem
  | store hr => exact hs.memWrite hr
  | packet | linkLoad | txInit | txReclaim | txFill | rxInit | rxRearm | grab | release | serve | receive | reset =>
    exact hs.congr rfl rfl

/-- No step changes the configuration (R7). -/
theorem step_cfg {s t : State} (h : step s = .next t) : t.cfg = s.cfg :=
  (step_turns h).ops.keeps (P := fun u => u.cfg = s.cfg) (fun _ _ ho hu => ho.cfg_eq.trans hu) rfl

/-! ### The obligations -/

/-- Settles O55: of the operations a step is a chain of, only a store writes local memory, and its range exists. -/
theorem memoryInvariantKept : Obligations.MemoryInvariantKept :=
  fun _ _ hs ht => ⟨step_cfg ht, step_keeps (fun _ _ ho _ => ho.memoryOk) hs.config hs.memory ht⟩

/-- Settles O8: a byte reads as written inside the range and as before outside it, and the form is canonical. -/
theorem memoryReadAfterWrite : Obligations.MemoryReadAfterWrite := by
  refine ⟨fun m a s hm => ⟨Memory.write_wf hm a s, Memory.read_write hm a s, fun b hb => ?_⟩,
    fun m a n => ⟨Memory.read_length m a n, fun k hk => Memory.byteAt_read m a n k hk⟩,
    fun _ _ hm hm' => Memory.eq_of_readByte_eq hm hm'⟩
  rw [Memory.readByte_write hm, if_neg (by omega)]

/-- Settles O9: a byte of a range that passes exists, and no byte of the register window does. -/
theorem rangeOkExactly : Obligations.RangeOkExactly := by
  refine ⟨fun c a n => by simp only [rangeOK_iff, isMapped_iff], fun c a n x hwf hr hax hxn => ?_⟩
  obtain ⟨-, hmapped⟩ := isMapped_of_rangeOK hr hax hxn
  by_contra hwin
  have hfree := window_not_mapped c (windowOk_of_wf hwf) x (by omega) (by omega)
  simp [hfree] at hmapped

end Sys2Proof.Machine
end

section
/-! PROOFS. Command words (spec/30_encoding.md R62 to R66): the encoder and the decoder are each other's inverse, and every
word is one row of the opcode map or rejected. -/

namespace Sys2Proof

/-! ### Fields of an immediate -/

/-- A placed field is read back where it was placed. -/
theorem extractLsb'_place_same {n : Nat} (v : BitVec n) (lo : Nat) (h : lo + n ≤ 24) :
    (place v lo).extractLsb' lo n = v := by
  refine BitVec.eq_of_getLsbD_eq fun i hi => ?_
  have hin : lo + i < 24 := by omega
  rw [BitVec.getLsbD_extractLsb', getLsbD_place]
  simp [hi, hin]

/-- Bits beside a placed field are 0. -/
theorem extractLsb'_place_disjoint {n : Nat} (v : BitVec n) {lo a m : Nat} (h : a + m ≤ lo ∨ lo + n ≤ a) :
    (place v lo).extractLsb' a m = 0 := by
  refine BitVec.eq_of_getLsbD_eq fun i hi => ?_
  rw [BitVec.getLsbD_extractLsb', getLsbD_place]
  rcases h with hbelow | habove
  · have hout : ¬ lo ≤ a + i := by omega
    simp [hout]
  · simp [BitVec.getLsbD_of_ge v (a + i - lo) (by omega)]

theorem flagOf_eq_field (w : Word) (i : Nat) : flagOf w i = (field w i 1).getLsbD 0 := by
  simp [flagOf, field]

theorem placeBit_flagOf (w : Word) (i : Nat) : placeBit (flagOf w i) i = place (field w i 1) i := by
  refine congrArg (place · i) (BitVec.eq_of_getLsbD_eq fun k hk => ?_)
  obtain rfl : k = 0 := by omega
  simp [flagOf_eq_field]

/-- A field and the bits below it, put back, are one longer field. -/
theorem place_field_or (w : Word) (lo n : Nat) :
    place (field w lo n) lo ||| place (field w 0 lo) 0 = place (field w 0 (lo + n)) 0 := by
  refine BitVec.eq_of_getLsbD_eq fun i hi => ?_
  simp only [BitVec.getLsbD_or, getLsbD_place, field, BitVec.getLsbD_extractLsb']
  grind

theorem field_eq_zero_iff (w : Word) (lo n : Nat) :
    field w lo n = 0 ↔ ∀ i, lo ≤ i → i < lo + n → w.getLsbD i = false := by
  constructor
  · intro h i hlo hi
    have hbit : (field w lo n).getLsbD (i - lo) = false := by simp [h]
    have hin : i - lo < n := by omega
    simpa [field, BitVec.getLsbD_extractLsb', hin, hlo, -BitVec.getLsbD_eq_getElem] using hbit
  · intro h
    refine BitVec.eq_of_getLsbD_eq fun i hi => ?_
    rw [field, BitVec.getLsbD_extractLsb', h (lo + i) (by omega) (by omega)]
    simp

/-- A word whose immediate is 0 from bit `lo` up is its opcode and the field below `lo`. -/
theorem commandWord_of_field_eq_zero {w : Word} {lo : Nat} (hlo : lo ≤ 24) (h : field w lo (24 - lo) = 0) :
    commandWord (opcodeOf w) (place (field w 0 lo) 0) = w := by
  have hsplit := place_field_or w lo (24 - lo)
  rw [h, Nat.add_sub_cancel' hlo] at hsplit
  rw [show place (field w 0 lo) 0 = field w 0 24 by simpa [place] using hsplit, commandWord_split]

theorem commandWord_zero (op : Byte) (w : Word) : commandWord op 0 = commandWord op (place (field w 0 0) 0) := by
  rw [BitVec.of_length_zero (x := field w 0 0)]
  rfl

/-! ### Decoding an encoding -/

/-- Every command is read back from its own word: its fields lie side by side and below the reserved bits. -/
theorem decode_encode (i : Instr) : decode (encode i) = .ok i := by
  cases i with
  | pktSetDst | pktSetSrc | pktSetKey | pktSetCmd | pktSetTid | pktSetPath | pktSetRpath | tlRelease =>
    simp [encode, decode, ifReservedZero, field_commandWord, extractLsb'_place_same, extractLsb'_place_disjoint]
  | pktGet | txEnqueue =>
    simp [encode, decode, ifReservedZero, field_commandWord, BitVec.extractLsb'_or, extractLsb'_place_same,
      extractLsb'_place_disjoint]
  | descRead | ringStat | tlGrab | tlQuery =>
    simp [encode, decode, ifReservedZero, field_commandWord, flagOf_eq_field, placeBit, BitVec.extractLsb'_or,
      extractLsb'_place_same, extractLsb'_place_disjoint]
  | _ => rfl

/-! ### The decoder over the opcode map -/

/-- The lowest reserved bit of a format: its fields end below it, and every bit from it up to bit 23 is reserved. -/
def Format.low : Format → Nat
  | .n => 0
  | .b8 => 8
  | .c4 => 4
  | .h16 => 16
  | .g => 12
  | .t => 16
  | .d => 18
  | .s => 2
  | .q => 17
  | .f1 => 1

theorem Format.low_le (f : Format) : f.low ≤ 24 := by cases f <;> decide

theorem Format.getLsbD_reserved (f : Format) (i : Nat) :
    f.reserved.getLsbD i = (decide (f.low ≤ i) && decide (i < 24)) := by
  have hmask : f.reserved = (BitVec.allOnes (24 - f.low)).setWidth 32 <<< f.low := by cases f <;> rfl
  rw [hmask, BitVec.getLsbD_shiftLeft, BitVec.getLsbD_setWidth, BitVec.getLsbD_allOnes]
  grind [f.low_le]

/-- The decoder's test of the reserved bits is the mask of R63. -/
theorem field_eq_zero_iff_and_reserved (w : Word) (f : Format) :
    field w f.low (24 - f.low) = 0 ↔ w &&& f.reserved = 0 := by
  rw [field_eq_zero_iff, Nat.add_sub_cancel' f.low_le]
  constructor
  · intro h
    refine BitVec.eq_of_getLsbD_eq fun i _ => ?_
    rw [BitVec.getLsbD_and, f.getLsbD_reserved]
    by_cases hi : f.low ≤ i ∧ i < 24
    · simp [h i hi.1 hi.2]
    · grind
  · intro h i hlo hi
    have hbit : (w &&& f.reserved).getLsbD i = false := by simp [h]
    simpa [-BitVec.getLsbD_eq_getElem, f.getLsbD_reserved, hlo, hi] using hbit

/-- The opcodes of no command, as R66 lists them. -/
theorem lookup_opcodeMap_eq_none_iff {n : Nat} (hn : n < 256) : opcodeMap.lookup n = none ↔
    n = 0x00 ∨ (0x02 ≤ n ∧ n ≤ 0x0F) ∨ (0x1C ≤ n ∧ n ≤ 0x1F) ∨ (0x23 ≤ n ∧ n ≤ 0x2F) ∨ (0x38 ≤ n ∧ n ≤ 0x3F) ∨
      0x49 ≤ n := by
  rw [List.lookup_eq_none_iff]
  simp only [opcodeMap, List.cons_append, List.nil_append, List.mem_cons, List.not_mem_nil, or_false, bne_iff_ne,
    ne_eq, forall_eq_or_imp, forall_eq]
  omega

/-- What the decoder answers for a word, over the table of R64: no row has its opcode, or one has and the reserved bits
decide; the word of the command it may answer has the row's opcode and all the word's bits below the reserved ones. -/
def Decoded (w : Word) (r : Except Reject Instr) : Prop :=
  (opcodeMap.lookup (opcodeOf w).toNat = none ∧ r = .error .illegalOpcode) ∨
  ∃ f i, opcodeMap.lookup (opcodeOf w).toNat = some f ∧ r = ifReservedZero w f.low i ∧
    encode i = commandWord (opcodeOf w) (place (field w 0 f.low) 0)

theorem Decoded.row {w : Word} {op : Byte} {i : Instr} (f : Format)
    (hword : encode i = commandWord op (place (field w 0 f.low) 0)) (hop : (opcodeOf w).toNat = op.toNat)
    (hrow : opcodeMap.lookup op.toNat = some f) : Decoded w (ifReservedZero w f.low i) :=
  .inr ⟨f, i, hop ▸ hrow, rfl, BitVec.eq_of_toNat_eq hop ▸ hword⟩

theorem encode_descRead_fields (w : Word) :
    encode (.descRead (field w 0 16) (ringOfBit (flagOf w 16)) (flagOf w 17)) =
      commandWord 0x36 (place (field w 0 18) 0) := by
  rw [encode, bit_ringOfBit, placeBit_flagOf, placeBit_flagOf, BitVec.or_assoc, place_field_or, place_field_or]

theorem encode_ringStat_fields (w : Word) :
    encode (.ringStat (ringOfBit (flagOf w 0)) (flagOf w 1)) = commandWord 0x37 (place (field w 0 2) 0) := by
  rw [encode, bit_ringOfBit, placeBit_flagOf, placeBit_flagOf, place_field_or]

theorem encode_tlQuery_fields (w : Word) :
    encode (.tlQuery (field w 0 16) (flagOf w 16)) = commandWord 0x42 (place (field w 0 17) 0) := by
  rw [encode, placeBit_flagOf, place_field_or]

/-- The arms of `decode`, by the format of their row. -/
theorem decode_decoded (w : Word) : Decoded w (decode w) := by
  unfold decode
  split
  case h_1 h | h_2 h | h_7 h | h_9 h | h_10 h | h_14 h | h_15 h | h_16 h | h_17 h | h_18 h | h_20 h | h_21 h | h_22 h |
    h_28 h | h_29 h | h_30 h | h_31 h | h_32 h | h_33 h => exact .row .n (commandWord_zero _ w) h rfl
  case h_3 h | h_4 h | h_5 h | h_11 h | h_12 h => exact .row .b8 rfl h rfl
  case h_6 h => exact .row .c4 rfl h rfl
  case h_8 h | h_26 h => exact .row .h16 rfl h rfl
  case h_13 h => exact .row .g (congrArg (commandWord _) (place_field_or w 4 8)) h rfl
  case h_19 h => exact .row .t (congrArg (commandWord _) (place_field_or w 8 8)) h rfl
  case h_23 h => exact .row .d (encode_descRead_fields w) h rfl
  case h_24 h => exact .row .s (encode_ringStat_fields w) h rfl
  case h_25 h => exact .row .f1 (congrArg (commandWord _) (placeBit_flagOf w 0)) h rfl
  case h_27 h => exact .row .q (encode_tlQuery_fields w) h rfl
  case h_34 => exact .inl ⟨(lookup_opcodeMap_eq_none_iff (opcodeOf w).isLt).mpr (by grind), rfl⟩

/-- No bit of a word that decodes goes unread. -/
theorem encode_of_decode {w : Word} {i : Instr} (h : decode w = .ok i) : encode i = w := by
  obtain ⟨-, herr⟩ | ⟨f, j, -, hread, hword⟩ := decode_decoded w
  · simp [herr] at h
  · rw [hread, ifReservedZero] at h
    split at h
    case isTrue hzero =>
      cases h
      rw [hword, commandWord_of_field_eq_zero f.low_le hzero]
    case isFalse => cases h

theorem decode_of_lookup_none {w : Word} (h : opcodeMap.lookup (opcodeOf w).toNat = none) :
    decode w = .error .illegalOpcode := by
  obtain ⟨-, herr⟩ | ⟨f, i, hrow, -⟩ := decode_decoded w
  · exact herr
  · simp [h] at hrow

theorem decode_of_lookup_some {w : Word} {f : Format} (h : opcodeMap.lookup (opcodeOf w).toNat = some f) :
    ∃ i, decode w = if w &&& f.reserved = 0 then .ok i else .error .reservedBit := by
  obtain ⟨hnone, -⟩ | ⟨f', i, hrow, hread, -⟩ := decode_decoded w
  · simp [h] at hnone
  · obtain rfl : f = f' := by simpa [h] using hrow
    exact ⟨i, by simp only [hread, ifReservedZero, field_eq_zero_iff_and_reserved]⟩

theorem decode_illegalOpcode_iff (w : Word) :
    decode w = .error .illegalOpcode ↔ opcodeMap.lookup (opcodeOf w).toNat = none := by
  refine ⟨fun h => ?_, decode_of_lookup_none⟩
  cases hrow : opcodeMap.lookup (opcodeOf w).toNat with
  | none => rfl
  | some f =>
    obtain ⟨i, hread⟩ := decode_of_lookup_some hrow
    rw [hread] at h
    split at h <;> cases h

end Sys2Proof

namespace Sys2Proof.Machine

theorem finish_of_drainMode_none {s : State} (h : s.drainMode = .none) (c : Code) :
    finish c s = { s with status := { s.status with code := c, busy := false } } := by
  rw [finish, ← h]

/-! ### The obligations -/

/-- Settles O2: by the command's constructors, each field is read back from where it was placed. -/
theorem decodeOfEncode : Obligations.DecodeOfEncode := decode_encode

/-- Settles O3: the word has its row's opcode, and its bits are those of the fields and the reserved zeros. -/
theorem encodeOfDecode : Obligations.EncodeOfDecode := fun _ _ => encode_of_decode

/-- Settles O4: the three answers of the decoder over the opcode map, and CORE's turn on each. -/
theorem decodingIsTotal : Obligations.DecodingIsTotal := by
  refine ⟨fun s hb hd => ⟨fun hrow => ?illegal, fun f hrow => ⟨fun hres => ?reserved, fun hres => ?command⟩⟩,
    fun w => (decode_illegalOpcode_iff w).trans (lookup_opcodeMap_eq_none_iff (opcodeOf w).isLt)⟩
  case illegal => rw [coreTurn_reject hb hd (decode_of_lookup_none hrow), finish_of_drainMode_none hd]
  all_goals obtain ⟨i, hread⟩ := decode_of_lookup_some hrow
  case reserved => rw [coreTurn_reject hb hd (hread.trans (if_neg hres)), finish_of_drainMode_none hd]
  case command =>
    have hi : decode s.lcmd = .ok i := hread.trans (if_pos hres)
    exact ⟨i, hi, encode_of_decode hi, coreTurn_command hb hd hi⟩

/-- Settles O1: each word is evaluated. -/
theorem specWordsDecode : Obligations.SpecWordsDecode :=
  ⟨rfl, rfl, rfl, rfl, rfl, rfl, rfl, rfl, rfl, rfl, rfl, rfl, rfl, rfl, rfl, rfl, rfl, rfl, rfl, rfl, rfl⟩

/-- Settles O18: under each value of DLEN_OMIT, by the instruction byte's flags. -/
theorem baseLengths : Obligations.BaseLengths := by
  refine fun c ib => ⟨fun hc => ?writeReply, fun hc => ?writeCmdNoReply⟩
  case writeReply =>
    have homit : omitsDlen c ib = (!isCmd ib && isWrite ib) := by rw [omitsDlen, hc]
    change baseLen c ib = if isCmd ib then 15 else if isWrite ib then 7 else if c.replyRsvd then 11 else 10
    rw [baseLen, hasRsvd, homit]
    cases isCmd ib <;> cases isWrite ib <;> cases c.replyRsvd <;> rfl
  case writeCmdNoReply =>
    have homit : omitsDlen c ib = (isCmd ib && (isWrite ib && !replyReq ib)) := by
      simp only [omitsDlen, hc, Bool.and_assoc]
    change baseLen c ib =
      if isCmd ib then (if isWrite ib && !replyReq ib then 12 else 15) else if c.replyRsvd then 11 else 10
    rw [baseLen, hasRsvd, homit]
    cases isCmd ib <;> cases (isWrite ib && !replyReq ib) <;> cases c.replyRsvd <;> rfl

end Sys2Proof.Machine
end

section
/-! PROOFS. Serialization and parsing (spec/41_codec.md R97 to R100, R104): what the parser reads in a serialized packet,
field by field, and the round trip. -/

namespace Sys2Proof.Machine

/-! ### Reading at an offset -/

theorem byteAt_split {a : List Byte} {k : Nat} (hk : k = a.length) (x : Byte) (b : List Byte) :
    byteAt (a ++ [x] ++ b) k = x := by
  simp [hk, byteAt]

theorem slice_split {a b : List Byte} {k n : Nat} (hk : k = a.length) (hn : n = b.length) (d : List Byte) :
    slice (a ++ b ++ d) k n = b := by
  simp [slice, hk, hn]

@[simp] theorem pathBytes_zero (path : List Byte) : pathBytes path 0#8 = [] := rfl

theorem toNat_ralOf (ib : Byte) : (ralOf ib).toNat = ib.toNat % 4 := by
  simp [ralOf]

/-! ### The header's fields, whatever follows it -/

section
variable {c : Config} {p : Pkt} (hpath : p.pathLen = 0) (hrl : p.rpathLen.toNat = parsedRpathLen p.instr)
  (rest : List Byte)

include hpath

/-- A header without a destination path begins with four bytes at fixed offsets. -/
theorem byteAt_ser_prefix : byteAt (ser c p ++ rest) 0 = p.dst ∧ byteAt (ser c p ++ rest) 1 = 0x01 ∧
    byteAt (ser c p ++ rest) 2 = p.instr ∧ byteAt (ser c p ++ rest) 3 = p.key := by
  simp [ser, hpath, byteAt]

include hrl

theorem length_ser : (ser c p).length = offsetOfHcrc c p.instr := by
  simp only [ser, hpath, offsetOfHcrc, offsetOfDlen, offsetAfterTid, ← hrl, List.length_append, apply_ite List.length]
  simp

theorem slice_ser_rpath :
    slice (ser c p ++ rest) 4 (parsedRpathLen p.instr) = pathBytes p.rpath p.rpathLen := by
  simp only [ser, List.append_assoc (_ ++ pathBytes p.rpath p.rpathLen)]
  exact slice_split (by simp [hpath]) (by simp [hrl]) _

theorem byteAt_ser_src : byteAt (ser c p ++ rest) (4 + parsedRpathLen p.instr) = p.src := by
  simp only [ser, List.append_assoc (_ ++ [p.src])]
  exact byteAt_split (by simp [hpath, hrl]; omega) _ _

theorem rdBe16_ser_tid : rdBe16 (ser c p ++ rest) (4 + parsedRpathLen p.instr + 1) = p.tid := by
  simp only [ser, List.append_assoc (_ ++ be16 p.tid)]
  convert rdBe16_be16 _ _ _ using 2
  simp [hpath, hrl]; omega

theorem rdBe32_ser_addr (hcmd : isCmd p.instr = true) :
    rdBe32 (ser c p ++ rest) (offsetAfterTid p.instr + 1) = p.addr := by
  simp only [ser, hcmd, if_true]
  rw [← List.append_assoc _ [0x00]]
  simp only [List.append_assoc (_ ++ be32 p.addr)]
  convert rdBe32_be32 _ _ _ using 2
  simp [hpath, hrl, offsetAfterTid]; omega

theorem rdBe24_ser_dlen (homit : omitsDlen c p.instr = false) :
    rdBe24 (ser c p ++ rest) (offsetOfDlen c p.instr) = p.dlen := by
  simp only [ser, homit, Bool.false_eq_true, if_false]
  convert rdBe24_be24 _ _ _ using 2
  simp [hpath, hrl, offsetAfterTid, offsetOfDlen, apply_ite List.length]; omega

end

/-! ### The whole packet -/

/-- A packet on the wire: header, header CRC and, where there is data, the data and its CRC (R104). -/
def wireBytes (c : Config) (p : Pkt) (d : List Byte) : List Byte :=
  ser c p ++ [crc8 (ser c p)] ++ (if 0 < p.dlen.toNat then d ++ [crc8 d] else [])

/-- What the parser is to read of it (R104). -/
def sentFields (c : Config) (p : Pkt) (d : List Byte) : Parsed where
  dst := p.dst
  ib := p.instr
  key := p.key
  src := p.src
  tid := p.tid
  addr := if isCmd p.instr then p.addr else 0
  dlen := p.dlen
  rl := p.rpathLen.toNat
  rpath := pathBytes p.rpath p.rpathLen
  hdrLen := (ser c p).length
  hcrc := crc8 (ser c p)
  dcrc := if p.dlen = 0 then 0 else crc8 d
  payload := d
  need := (wireBytes c p d).length
  long := false

/-- The conditions of R104 on a packet and its data. -/
structure Sendable (c : Config) (p : Pkt) (d : List Byte) : Prop where
  reserved : isReservedIb p.instr = false
  code : legalCode (codeOf p.instr) = true
  path : p.pathLen = 0
  rpath : p.rpathLen.toNat = parsedRpathLen p.instr
  dlen : omitsDlen c p.instr = true → p.dlen = 0
  data : d.length = p.dlen.toNat

section
variable {c : Config} {p : Pkt} {d : List Byte} (h : Sendable c p d)

theorem wireBytes_of_dlen_zero (hd : p.dlen = 0) : wireBytes c p d = ser c p ++ [crc8 (ser c p)] := by
  simp [wireBytes, hd]

theorem wireBytes_of_dlen_ne_zero (hd : p.dlen ≠ 0) :
    wireBytes c p d = ser c p ++ [crc8 (ser c p)] ++ d ++ [crc8 d] := by
  have hpos : 0 < p.dlen.toNat := Nat.pos_of_ne_zero fun h0 => hd (BitVec.eq_of_toNat_eq h0)
  rw [wireBytes, if_pos hpos, ← List.append_assoc]

theorem wireBytes_eq_ser_append (c : Config) (p : Pkt) (d : List Byte) : ∃ rest, wireBytes c p d = ser c p ++ rest :=
  ⟨_, List.append_assoc ..⟩

theorem slice_wireBytes_header : slice (wireBytes c p d) 0 (ser c p).length = ser c p := by
  simp [slice, wireBytes]

theorem byteAt_wireBytes_hcrc : byteAt (wireBytes c p d) (ser c p).length = crc8 (ser c p) :=
  byteAt_split rfl _ _

include h

theorem length_wireBytes : (wireBytes c p d).length =
    if p.dlen = 0 then (ser c p).length + 1 else (ser c p).length + 1 + p.dlen.toNat + 1 := by
  split
  case isTrue hd => simp [wireBytes_of_dlen_zero hd]
  case isFalse hd => simp [wireBytes_of_dlen_ne_zero hd, h.data]; omega

theorem parsedDlen_wireBytes : parsedDlen c (wireBytes c p d) = p.dlen := by
  obtain ⟨rest, hser⟩ := wireBytes_eq_ser_append c p d
  obtain ⟨-, -, hib, -⟩ := hser ▸ byteAt_ser_prefix (c := c) h.path rest
  rw [parsedDlen, hib]
  split
  case isTrue homit => exact (h.dlen homit).symm
  case isFalse homit => exact hser ▸ rdBe24_ser_dlen h.path h.rpath rest (by simpa using homit)

theorem slice_wireBytes_payload : slice (wireBytes c p d) ((ser c p).length + 1) p.dlen.toNat = d := by
  by_cases hd : p.dlen = 0
  · have hnil : d = [] := List.length_eq_zero_iff.mp (by simp [h.data, hd])
    simp [slice, hd, hnil]
  · rw [wireBytes_of_dlen_ne_zero hd]
    exact slice_split (by simp) h.data.symm _

theorem byteAt_wireBytes_dcrc (hd : p.dlen ≠ 0) :
    byteAt (wireBytes c p d) ((ser c p).length + 1 + p.dlen.toNat) = crc8 d := by
  rw [wireBytes_of_dlen_ne_zero hd, ← List.append_nil (_ ++ [crc8 d])]
  exact byteAt_split (by simp [h.data]; omega) _ _

/-- Every field of R99 is read from where R97 puts it. -/
theorem prsFields_wireBytes : prsFields c (wireBytes c p d) = sentFields c p d := by
  obtain ⟨rest, hser⟩ := wireBytes_eq_ser_append c p d
  obtain ⟨hdst, -, hib, hkey⟩ := hser ▸ byteAt_ser_prefix (c := c) h.path rest
  have hsrc := hser ▸ byteAt_ser_src (c := c) h.path h.rpath rest
  have htid := hser ▸ rdBe16_ser_tid (c := c) h.path h.rpath rest
  have hrpath := hser ▸ slice_ser_rpath (c := c) h.path h.rpath rest
  have haddr : (if isCmd p.instr then rdBe32 (wireBytes c p d) (offsetAfterTid p.instr + 1) else 0) =
      if isCmd p.instr then p.addr else 0 :=
    ite_congr rfl (fun hcmd => hser ▸ rdBe32_ser_addr h.path h.rpath rest hcmd) fun _ => rfl
  have hdcrc : (if p.dlen = 0 then 0 else byteAt (wireBytes c p d) ((ser c p).length + 1 + p.dlen.toNat)) =
      if p.dlen = 0 then 0 else crc8 d :=
    ite_congr rfl (fun _ => rfl) (byteAt_wireBytes_dcrc h)
  simp only [prsFields, sentFields, hdst, hib, hkey, hsrc, htid, hrpath, haddr, parsedDlen_wireBytes h, h.rpath,
    ← length_ser h.path h.rpath, byteAt_wireBytes_hcrc, slice_wireBytes_payload h, hdcrc, ← length_wireBytes h,
    lt_irrefl, decide_false]

/-- None of the checks of R100 finds anything wrong. -/
theorem prsCheck_wireBytes (pcrc : Bool) : prsCheck c pcrc (wireBytes c p d) = none := by
  obtain ⟨rest, hser⟩ := wireBytes_eq_ser_append c p d
  obtain ⟨-, hproto, hib, -⟩ := hser ▸ byteAt_ser_prefix (c := c) h.path rest
  have hhdr : (ser c p).length = baseLen c p.instr + parsedRpathLen p.instr :=
    (length_ser h.path h.rpath).trans (offsetOfHcrc_eq c p.instr)
  have hlen := length_wireBytes h
  have hbase : 3 ≤ baseLen c p.instr := by rw [baseLen]; omega
  have hmin : (ser c p).length + 1 ≤ (wireBytes c p d).length := by rw [hlen]; split <;> omega
  have hrpath : isCmd p.instr = true → parsedRpathLen p.instr = 4 * (ralOf p.instr).toNat := fun hcmd => if_pos hcmd
  simp only [prsCheck, prsFields_wireBytes h, hib, hproto, h.reserved, h.code, sentFields]
  rw [if_neg ?protocolId, if_neg ?instruction, if_neg ?short, if_neg ?replyPath, if_neg ?data, if_neg ?crc]
  case protocolId => simp only [bne_self_eq_false, Bool.or_false, decide_eq_true_eq]; omega
  case instruction => simp
  case short => omega
  case replyPath =>
    simp only [Bool.and_eq_true, decide_eq_true_eq, not_and]
    intro hcmd
    rw [← hrpath hcmd]
    omega
  case data =>
    simp only [Bool.and_eq_true, bne_iff_ne, decide_eq_true_eq, not_and]
    intro hd
    rw [hlen, if_neg hd]
    exact lt_irrefl _
  case crc => simp +contextual [slice_wireBytes_header]

/-- A packet on the wire parses back to what was sent. -/
theorem prs_wireBytes (pcrc : Bool) : prs c pcrc (wireBytes c p d) = .ok (sentFields c p d) :=
  (prs_ok_iff ..).mpr ⟨prsCheck_wireBytes h pcrc, prsFields_wireBytes h⟩

end

/-! ### The obligation -/

/-- Settles O21: each field is read where `ser` puts it, the lengths are those the checks ask for, and the CRCs are the
ones the parser computes again. -/
theorem codecRoundTrip : Obligations.CodecRoundTrip := by
  intro c pcrc p d hrsv hcode hpath hcmd hreply homit hdata
  have hrpath : p.rpathLen.toNat = parsedRpathLen p.instr := by
    rw [parsedRpathLen, toNat_ralOf]
    split
    case isTrue h => exact hcmd h
    case isFalse h => simp [hreply (by simpa using h)]
  refine ⟨sentFields c p d, prs_wireBytes ⟨hrsv, hcode, hpath, hrpath, homit, hdata⟩ pcrc, rfl, rfl, rfl, rfl, rfl, rfl,
    rfl, rfl, rfl, rfl, fun h => if_pos h, rfl, rfl, fun hpos => if_neg fun hzero => ?_⟩
  simp [hzero] at hpos

end Sys2Proof.Machine
end

section
/-! PROOFS. The CRC8 unit (spec/40_crc.md R79 to R83): the table, the fold, the residue, and the command; and that a word
with a reserved bit set is rejected (spec/30_encoding.md R63, R65). -/

namespace Sys2Proof.Machine

/-! ### The table and the fold -/

/-- One bit of the division by the reflected polynomial 0xE0 (R81). -/
def crcStep (c : Byte) : Byte := if c.getLsbD 0 then (c >>> 1) ^^^ 0xE0#8 else c >>> 1

/-- The table of R80 is written out, so its 256 entries are checked one by one. -/
theorem crcTable_eq_iterate_crcStep : ∀ i : Byte, crcTable i = crcStep^[8] i := by decide

theorem crc8From_append (c : Byte) (s t : List Byte) : crc8From c (s ++ t) = crc8From (crc8From c s) t := by
  induction s generalizing c with
  | nil => rfl
  | cons b s ih => exact ih (crcTable (c ^^^ b))

theorem crc8_append_singleton (s : List Byte) (b : Byte) : crc8 (s ++ [b]) = crcTable (crc8 s ^^^ b) :=
  crc8From_append 0 s [b]

/-- The fold's last step looks up the CRC against itself, which is entry 0 (R82). -/
theorem crc8_append_crc8 (s : List Byte) : crc8 (s ++ [crc8 s]) = 0 := by
  rw [crc8_append_singleton, BitVec.xor_self]
  rfl

theorem crc8_singleton (b : Byte) : crc8 [b] = crcTable b := congrArg crcTable BitVec.zero_xor

/-! ### Reserved bits -/

theorem commandWord_and_reserved_ne_zero (op : Byte) {imm : BitVec 24} {f : Format} (himm : 2 ^ f.low ≤ imm.toNat) :
    commandWord op imm &&& f.reserved ≠ 0 := by
  obtain ⟨i, hlo, hbit : imm.getLsbD i = true⟩ := Nat.exists_ge_and_testBit_of_ge_two_pow himm
  have hi : i < 24 := BitVec.lt_of_getLsbD hbit
  have hword : (commandWord op imm).getLsbD i = true := (flagOf_commandWord op imm i hi).trans hbit
  have hres : f.reserved.getLsbD i = true := by rw [f.getLsbD_reserved]; simp [hlo, hi]
  intro hzero
  have hand := BitVec.getLsbD_and (x := commandWord op imm) (y := f.reserved) (i := i)
  simp [hzero, hword, hres] at hand

/-- The immediate of a row's word is rejected from the first bit above the row's fields up. -/
theorem RejectsReserved.of_lookup {op : Byte} (f : Format) (hrow : opcodeMap.lookup op.toNat = some f) :
    RejectsReserved op f.low := by
  intro s imm hb hd hl himm
  have hres : s.lcmd &&& f.reserved ≠ 0 := hl ▸ commandWord_and_reserved_ne_zero op himm
  have hop : opcodeMap.lookup (opcodeOf s.lcmd).toNat = some f := by rw [hl, opcodeOf_commandWord, hrow]
  obtain ⟨i, hread⟩ := decode_of_lookup_some hop
  rw [coreTurn_reject hb hd (hread.trans (if_neg hres)), finish_of_drainMode_none hd]

/-! ### The command -/

theorem exec_crc8_of_rangeOK {s : State} (h : rangeOK s.cfg s.larg0.toNat s.larg1.toNat = true) :
    exec .crc8 s = .next
      (finishWith .ok ((crc8 (Memory.read s.lmem s.larg0.toNat s.larg1.toNat)).setWidth 32) s) :=
  congrArg Host.Outcome.next (if_neg (by simp [State.rangeOK, State.a0, State.a1, h]))

theorem exec_crc8_of_not_rangeOK {s : State} (h : rangeOK s.cfg s.larg0.toNat s.larg1.toNat = false) :
    exec .crc8 s = .next (finish .eBus s) :=
  congrArg Host.Outcome.next (if_pos (by simp [State.rangeOK, State.a0, State.a1, h]))

theorem exec_crc8_of_length_zero {s : State} (h : s.larg1 = 0) : exec .crc8 s = .next (finishWith .ok 0 s) := by
  have hn : s.larg1.toNat = 0 := by simp [h]
  rw [exec_crc8_of_rangeOK (by rw [hn, rangeOK_zero]), hn]
  rfl

/-! ### The obligations -/

/-- Settles O6: the table entry by entry, the fold by induction over the first sequence; the residue and the CRC of one
byte are the fold's last step. -/
theorem crcTableAndResidue : Obligations.CrcTableAndResidue :=
  ⟨crcTable_eq_iterate_crcStep, rfl, rfl, crc8From_append, crc8_append_crc8, crc8_singleton⟩

/-- Settles O7: RangeOK decides between the two ends, and the empty range passes it at every address. -/
theorem crc8Command : Obligations.Crc8Command := by
  refine ⟨.of_decode rfl, .of_lookup .n rfl, fun s =>
    ⟨fun hr => ⟨_, ?_, exec_crc8_of_rangeOK hr⟩, exec_crc8_of_not_rangeOK, exec_crc8_of_length_zero⟩⟩
  exact BitVec.toNat_setWidth_of_le (by decide)

end Sys2Proof.Machine
end

section
/-! PROOFS. The packet builders and PKT_GET (spec/41_codec.md R84 to R95), and command words written as numbers with
their fields put in by a disjunction (spec/30_encoding.md R62, R63). -/

namespace Sys2Proof

/-! ### Command words as numbers -/

/-- The opcode and the immediate of a word lie side by side. -/
theorem commandWord_eq_or (op : Byte) (imm : BitVec 24) :
    commandWord op imm = commandWord op 0 ||| imm.setWidth 32 := by
  refine BitVec.eq_of_getLsbD_eq fun i hi => ?_
  simp only [commandWord, BitVec.getLsbD_or, BitVec.getLsbD_append, BitVec.getLsbD_setWidth, hi]
  by_cases h : i < 24
  · simp [h]
  · simp [h, BitVec.getLsbD_of_ge imm i (by omega)]

/-- A field of the immediate is the same field of the word. -/
theorem setWidth_place {n : Nat} (v : BitVec n) (lo : Nat) (h : lo + n ≤ 24) :
    (place v lo).setWidth 32 = v.setWidth 32 <<< lo := by
  refine BitVec.eq_of_getLsbD_eq fun i hi => ?_
  rw [BitVec.getLsbD_setWidth, getLsbD_place, ← Machine.fieldAt, Machine.getLsbD_fieldAt]
  by_cases h24 : i < 24
  · simp [h24, Bool.and_assoc]
  · simp [BitVec.getLsbD_of_ge v (i - lo) (by omega)]

theorem commandWord_place_zero (op : Byte) {n : Nat} (v : BitVec n) (h : n ≤ 24) :
    commandWord op (place v 0) = commandWord op 0 ||| v.setWidth 32 := by
  rw [commandWord_eq_or, setWidth_place v 0 (by omega), BitVec.shiftLeft_zero]

end Sys2Proof

namespace Sys2Proof.Machine

/-- A command's own word runs as the command (R28). -/
theorem RunsAs.of_encode {w : Word} {i : Instr} (h : encode i = w) : RunsAs w i :=
  .of_decode (h ▸ decode_encode i)

/-! ### The instruction byte and the buffers -/

theorem legalCode_eq_false_iff (code : BitVec 4) : legalCode code = false ↔ code.toNat ∈ [0x0, 0x1, 0x4, 0x5, 0x6] := by
  revert code
  decide

theorem legalCode_iff (code : BitVec 4) :
    legalCode code = true ↔ code.toNat ∈ [0x2, 0x3, 0x7, 0x8, 0x9, 0xA, 0xB, 0xC, 0xD, 0xE, 0xF] := by
  revert code
  decide

/-- A concatenation as a number. -/
theorem toNat_append_eq_add {m n : Nat} (x : BitVec m) (y : BitVec n) : (x ++ y).toNat = 2 ^ n * x.toNat + y.toNat := by
  rw [BitVec.toNat_append, Nat.shiftLeft_eq, Nat.mul_comm, Nat.two_pow_add_eq_or_of_lt y.isLt]

theorem byteAt_bufWrite_of_lt {s : List Byte} {k : Nat} (h : k < s.length) (w : List Byte) :
    byteAt (bufWrite s w) k = byteAt s k :=
  List.getD_append _ _ _ _ h

theorem byteAt_bufWrite_of_ge {s : List Byte} {k : Nat} (h : s.length ≤ k) (w : List Byte) :
    byteAt (bufWrite s w) k = byteAt w k := by
  simp only [byteAt, bufWrite, List.getD_append_right _ _ _ _ h, List.getD_eq_getElem?_getD, List.getElem?_drop,
    Nat.add_sub_cancel' h]

/-- The bytes at an address copied into a buffer: they replace its first bytes and the later ones stay (R93, R94). -/
theorem bufWrite_read_spec (m : List Host.Cell) (a n : Nat) (w : List Byte) :
    (bufWrite (Memory.read m a n) w).length = max n w.length ∧
    (∀ k, k < n → byteAt (bufWrite (Memory.read m a n) w) k = Memory.readByte m (a + k)) ∧
    ∀ k, n ≤ k → byteAt (bufWrite (Memory.read m a n) w) k = byteAt w k := by
  refine ⟨by simp, fun k hk => ?_, fun k hk => byteAt_bufWrite_of_ge (by simpa using hk) w⟩
  rw [byteAt_bufWrite_of_lt (by simpa using hk), Memory.byteAt_read m a n k hk]

/-! ### The commands, answer by answer -/

theorem exec_hdrSize_of_illegal {s : State} (h : legalCode (codeOf s.pkt.instr) = false) :
    exec .hdrSize s = .next (finish .eInval s) :=
  congrArg Host.Outcome.next (if_pos (by simp [h]))

theorem exec_serialize_of_illegal {s : State} (h : legalCode (codeOf s.pkt.instr) = false) :
    exec .serialize s = .next (finish .eInval s) :=
  congrArg Host.Outcome.next (if_pos (by simp [h]))

theorem exec_pktSetDlen_of_le {s : State} (h : s.larg0.toNat ≤ 0x00FFFFFF) :
    exec .pktSetDlen s = .next (finish .ok { s with pkt := { s.pkt with dlen := s.larg0.extractLsb' 0 24 } }) :=
  congrArg Host.Outcome.next (if_neg (Nat.not_lt.mpr h))

theorem exec_pktSetDlen_of_gt {s : State} (h : 0x00FFFFFF < s.larg0.toNat) :
    exec .pktSetDlen s = .next (finish .eInval s) :=
  congrArg Host.Outcome.next (if_pos h)

theorem exec_pktSetCmd_of_legal {code : BitVec 4} (h : legalCode code = true) (s : State) :
    exec (.pktSetCmd code) s =
      .next (finish .ok { s with pkt := { s.pkt with instr := 0#1 ++ 1#1 ++ code ++ ralOf s.pkt.instr } }) :=
  congrArg Host.Outcome.next (if_neg (by simp [h]))

theorem exec_pktSetCmd_of_illegal {code : BitVec 4} (h : legalCode code = false) (s : State) :
    exec (.pktSetCmd code) s = .next (finish .eInval s) :=
  congrArg Host.Outcome.next (if_pos (by simp [h]))

section
variable {b : Byte} {s : State}

theorem exec_pktSetPath_of_too_long (h : s.cfg.maxPathLen < b.toNat) :
    exec (.pktSetPath b) s = .next (finish .eInval s) :=
  congrArg Host.Outcome.next (if_pos h)

theorem exec_pktSetPath_of_not_rangeOK (h : b.toNat ≤ s.cfg.maxPathLen)
    (hr : rangeOK s.cfg s.larg0.toNat b.toNat = false) : exec (.pktSetPath b) s = .next (finish .eBus s) :=
  congrArg Host.Outcome.next ((if_neg (Nat.not_lt.mpr h)).trans (if_pos (by simp [State.rangeOK, State.a0, hr])))

theorem exec_pktSetPath_of_rangeOK (h : b.toNat ≤ s.cfg.maxPathLen)
    (hr : rangeOK s.cfg s.larg0.toNat b.toNat = true) :
    exec (.pktSetPath b) s =
      .next (finish .ok
        { s with
          pkt :=
            { s.pkt with
              path := bufWrite (Memory.read s.lmem s.larg0.toNat b.toNat) s.pkt.path, pathLen := b } }) :=
  congrArg Host.Outcome.next ((if_neg (Nat.not_lt.mpr h)).trans (if_neg (by simp [State.rangeOK, State.a0, hr])))

/-- The reply path lengths that PKT_SET_RPATH admits (R94). -/
theorem mem_replyPathLengths_iff (n : Nat) : n ∈ [0, 4, 8, 12] ↔ ¬ (12 < n ∨ n % 4 ≠ 0) := by
  simp
  omega

theorem exec_pktSetRpath_of_bad_length (h : 12 < b.toNat ∨ b.toNat % 4 ≠ 0) :
    exec (.pktSetRpath b) s = .next (finish .eInval s) :=
  congrArg Host.Outcome.next (if_pos (by simpa [Config.maxRpathLen] using h))

theorem exec_pktSetRpath_of_not_rangeOK (h : b.toNat ∈ [0, 4, 8, 12])
    (hr : rangeOK s.cfg s.larg0.toNat b.toNat = false) : exec (.pktSetRpath b) s = .next (finish .eBus s) :=
  congrArg Host.Outcome.next <|
    (if_neg (by simpa [Config.maxRpathLen] using (mem_replyPathLengths_iff _).mp h)).trans
      (if_pos (by simp [State.rangeOK, State.a0, hr]))

theorem exec_pktSetRpath_of_rangeOK (h : b.toNat ∈ [0, 4, 8, 12])
    (hr : rangeOK s.cfg s.larg0.toNat b.toNat = true) :
    exec (.pktSetRpath b) s =
      .next (finish .ok
        { s with
          pkt :=
            { s.pkt with
              rpath := bufWrite (Memory.read s.lmem s.larg0.toNat b.toNat) s.pkt.rpath
              rpathLen := b
              instr := s.pkt.instr.extractLsb' 2 6 ++ BitVec.ofNat 2 (b.toNat / 4) } }) :=
  congrArg Host.Outcome.next <|
    (if_neg (by simpa [Config.maxRpathLen] using (mem_replyPathLengths_iff _).mp h)).trans
      (if_neg (by simp [State.rangeOK, State.a0, hr]))

end

theorem exec_pktGet_of_some {sel : BitVec 4} {idx : Byte} {s : State} {v : Word} (h : pktField s.pkt sel idx = some v) :
    exec (.pktGet sel idx) s = .next (finishWith .ok v s) := by
  rw [exec, execPktGet, h]

theorem exec_pktGet_of_none {sel : BitVec 4} {idx : Byte} {s : State} (h : pktField s.pkt sel idx = none) :
    exec (.pktGet sel idx) s = .next (finish .eInval s) := by
  rw [exec, execPktGet, h]

theorem pktField_of_ge {p : Pkt} {sel : BitVec 4} (idx : Byte) (h : 13 ≤ sel.toNat) : pktField p sel idx = none := by
  unfold pktField
  split
  case h_14 => rfl
  all_goals omega

/-! ### The obligations -/

/-- Settles O23: each builder is its arm of `exec`; after PKT_CLEAR the instruction byte holds an illegal code, and a
length below 2^24 is its own low 24 bits. -/
theorem packetBuilders : Obligations.PacketBuilders := by
  have hzero : legalCode (codeOf 0) = false := by decide
  refine ⟨.of_decode rfl, .of_lookup .n rfl,
    fun b => .of_encode (commandWord_place_zero 0x11 b (by decide)), .of_lookup .b8 rfl,
    fun b => .of_encode (commandWord_place_zero 0x12 b (by decide)), .of_lookup .b8 rfl,
    fun b => .of_encode (commandWord_place_zero 0x13 b (by decide)), .of_lookup .b8 rfl,
    fun h => .of_encode (commandWord_place_zero 0x16 h (by decide)), .of_lookup .h16 rfl,
    .of_decode rfl, .of_lookup .n rfl, .of_decode rfl, .of_lookup .n rfl,
    fun s => ⟨_, rfl, rfl, rfl, rfl, rfl, rfl, rfl, rfl, rfl, rfl, rfl, rfl, rfl, rfl, rfl,
      exec_hdrSize_of_illegal hzero, exec_serialize_of_illegal hzero⟩,
    fun _ _ => rfl, fun _ _ => rfl, fun _ _ => rfl, fun _ _ => rfl, fun _ => rfl, fun s n hn => ?_,
    fun s hlong => exec_pktSetDlen_of_gt (by omega)⟩
  have hlow : s.larg0.extractLsb' 0 24 = n := BitVec.eq_of_toNat_eq (by simp [hn]; omega)
  rw [exec_pktSetDlen_of_le (by omega), hlow]

/-- Settles O24: the new instruction byte is the concatenation of its fields, and the mask 0xBF is bit 6 alone. -/
theorem instructionByteBuilders : Obligations.InstructionByteBuilders := by
  refine ⟨fun code => .of_encode (commandWord_place_zero 0x14 code (by decide)), .of_lookup .c4 rfl, .of_decode rfl,
    .of_lookup .n rfl, fun code s hlegal => ⟨_, ?command, exec_pktSetCmd_of_legal ((legalCode_iff code).mpr hlegal) s⟩,
    fun code s hbad => exec_pktSetCmd_of_illegal ((legalCode_eq_false_iff code).mpr hbad) s,
    fun s => ⟨_, fun k hk => ?reply, rfl⟩⟩
  case command =>
    simp only [toNat_append_eq_add, toNat_ralOf, BitVec.toNat_ofNat]
    omega
  case reply =>
    have hmask : ∀ k < 8, (0xBF#8).getLsbD k = !decide (k = 6) := by decide
    rw [BitVec.getLsbD_and, hmask k hk]
    by_cases h6 : k = 6 <;> simp [h6]

/-- Settles O25: the checks one after another; the bytes read from memory go over the first bytes of the buffer. -/
theorem pathBuilders : Obligations.PathBuilders := by
  refine ⟨fun b => .of_encode (commandWord_place_zero 0x19 b (by decide)), .of_lookup .b8 rfl,
    fun b => .of_encode (commandWord_place_zero 0x1A b (by decide)), .of_lookup .b8 rfl,
    fun b s => ⟨exec_pktSetPath_of_too_long, exec_pktSetPath_of_not_rangeOK,
      fun h hr => ⟨_, exec_pktSetPath_of_rangeOK h hr, bufWrite_read_spec ..⟩⟩,
    fun b s => ⟨exec_pktSetRpath_of_bad_length, exec_pktSetRpath_of_not_rangeOK,
      fun h hr => ⟨_, _, exec_pktSetRpath_of_rangeOK h hr, ?ral, bufWrite_read_spec ..⟩⟩⟩
  case ral =>
    have h4 : b.toNat / 4 < 4 := by have := (mem_replyPathLengths_iff _).mp h; omega
    have hhigh : (s.pkt.instr.extractLsb' 2 6).toNat = s.pkt.instr.toNat / 4 := by
      simp [Nat.shiftRight_eq_div_pow]
      omega
    rw [toNat_append_eq_add, hhigh, BitVec.toNat_ofNat, Nat.mod_eq_of_lt h4]
    omega

/-- Settles O26: selector by selector, and an index below the path's length or not. -/
theorem packetGet : Obligations.PacketGet := by
  refine ⟨fun sel idx => .of_encode ?word, .of_lookup .g rfl, fun idx s =>
    ⟨rfl, rfl, rfl, rfl, rfl, rfl, rfl, rfl, rfl, rfl, rfl,
      fun h => exec_pktGet_of_some (if_neg (Nat.not_le.mpr h)), fun h => exec_pktGet_of_none (if_pos h),
      fun h => exec_pktGet_of_some (if_neg (Nat.not_le.mpr h)), fun h => exec_pktGet_of_none (if_pos h),
      fun sel h => exec_pktGet_of_none (pktField_of_ge idx h)⟩⟩
  case word =>
    rw [encode, commandWord_eq_or, BitVec.setWidth_or, setWidth_place idx 4 (by decide),
      setWidth_place sel 0 (by decide), BitVec.shiftLeft_zero, ← BitVec.or_assoc]
    rfl

end Sys2Proof.Machine
end

section
/-! PROOFS. Serialization (spec/41_codec.md R96 to R98): the bytes of `ser(p)` position by position, its length, and the
commands HDR_SIZE and SERIALIZE. -/

namespace Sys2Proof.Machine

/-! ### Reading past a prefix -/

theorem byteAt_append_of_eq {a : List Byte} {k m : Nat} (h : k = a.length + m) (q : List Byte) :
    byteAt (a ++ q) k = byteAt q m := by
  rw [h, byteAt_append_right]

theorem byteAt_pathBytes (path : List Byte) {len : Byte} {k : Nat} (h : k < len.toNat) (q : List Byte) :
    byteAt (pathBytes path len ++ q) k = byteAt path k := by
  simp [byteAt, pathBytes, bufRead, h, List.getElem?_append_left]

/-! ### The bytes of a big-endian field -/

theorem toNat_extractByte {n : Nat} (v : BitVec n) (lo : Nat) :
    (v.extractLsb' lo 8).toNat = v.toNat / 2 ^ lo % 2 ^ 8 := by
  rw [BitVec.extractLsb'_toNat, Nat.shiftRight_eq_div_pow]

/-- A big-endian field read in a sequence `b` that continues with it at `k`. -/
theorem toNat_bytes_of_be16 {b q : List Byte} {k : Nat} {v : BitVec 16}
    (h : ∀ j, byteAt b (k + j) = byteAt (be16 v ++ q) j) :
    (byteAt b k).toNat = v.toNat / 2 ^ 8 ∧ (byteAt b (k + 1)).toNat = v.toNat % 2 ^ 8 := by
  have h0 : byteAt b k = _ := h 0
  rw [h0, h]
  exact ⟨(toNat_extractByte v 8).trans (by omega), (toNat_extractByte v 0).trans (by omega)⟩

theorem toNat_bytes_of_be24 {b q : List Byte} {k : Nat} {v : BitVec 24}
    (h : ∀ j, byteAt b (k + j) = byteAt (be24 v ++ q) j) :
    (byteAt b k).toNat = v.toNat / 2 ^ 16 ∧ (byteAt b (k + 1)).toNat = v.toNat / 2 ^ 8 % 2 ^ 8 ∧
    (byteAt b (k + 2)).toNat = v.toNat % 2 ^ 8 := by
  have h0 : byteAt b k = _ := h 0
  rw [h0, h, h]
  exact ⟨(toNat_extractByte v 16).trans (by omega), toNat_extractByte v 8, (toNat_extractByte v 0).trans (by omega)⟩

theorem toNat_bytes_of_be32 {b q : List Byte} {k : Nat} {v : Word}
    (h : ∀ j, byteAt b (k + j) = byteAt (be32 v ++ q) j) :
    (byteAt b k).toNat = v.toNat / 2 ^ 24 ∧ (byteAt b (k + 1)).toNat = v.toNat / 2 ^ 16 % 2 ^ 8 ∧
    (byteAt b (k + 2)).toNat = v.toNat / 2 ^ 8 % 2 ^ 8 ∧ (byteAt b (k + 3)).toNat = v.toNat % 2 ^ 8 := by
  have h0 : byteAt b k = _ := h 0
  rw [h0, h, h, h]
  exact ⟨(toNat_extractByte v 24).trans (by omega), toNat_extractByte v 16, toNat_extractByte v 8,
    (toNat_extractByte v 0).trans (by omega)⟩

/-! ### The header in pieces -/

/-- The address field of a command, with its zero byte (R97). -/
def serAddr (p : Pkt) : List Byte := if isCmd p.instr then [0x00] ++ be32 p.addr else []

/-- The reserved byte of a reply (R97). -/
def serRsvd (c : Config) (p : Pkt) : List Byte := if hasRsvd c p.instr then [0x00] else []

/-- The data length field (R97). -/
def serDlen (c : Config) (p : Pkt) : List Byte := if omitsDlen c p.instr then [] else be24 p.dlen

/-- Everything after the transaction id (R97). -/
def serTail (c : Config) (p : Pkt) : List Byte := serAddr p ++ (serRsvd c p ++ serDlen c p)

section
variable (c : Config) (p : Pkt)

theorem length_serAddr : (serAddr p).length = if isCmd p.instr then 5 else 0 := by
  unfold serAddr
  split <;> rfl

theorem length_serRsvd : (serRsvd c p).length = if hasRsvd c p.instr then 1 else 0 := by
  unfold serRsvd
  split <;> rfl

theorem length_serDlen : (serDlen c p).length = if omitsDlen c p.instr then 0 else 3 := by
  unfold serDlen
  split <;> rfl

/-- `ser(p)`, each field before all that follows it. -/
theorem ser_eq_append : ser c p =
    pathBytes p.path p.pathLen ++ ([p.dst, 0x01, p.instr, p.key] ++ (pathBytes p.rpath p.rpathLen ++
      ([p.src] ++ (be16 p.tid ++ serTail c p)))) := by
  simp only [ser, serTail, serAddr, serRsvd, serDlen, List.append_assoc]

/-- The length of `ser(p)` is the one HDR_SIZE computes. -/
theorem length_ser_eq_headerSize : (ser c p).length = headerSize c p := by
  simp only [ser_eq_append, serTail, List.length_append, length_serAddr, length_serRsvd, length_serDlen, headerSize,
    baseLen, pathBytes_length, be16_length, List.length_cons, List.length_nil]
  omega

theorem byteAt_ser_afterPath (k : Nat) : byteAt (ser c p) (p.pathLen.toNat + k) =
    byteAt ([p.dst, 0x01, p.instr, p.key] ++ (pathBytes p.rpath p.rpathLen ++
      ([p.src] ++ (be16 p.tid ++ serTail c p)))) k := by
  rw [ser_eq_append]
  exact byteAt_append_of_eq (by simp) _

theorem byteAt_ser_afterKey (k : Nat) : byteAt (ser c p) (p.pathLen.toNat + 4 + k) =
    byteAt (pathBytes p.rpath p.rpathLen ++ ([p.src] ++ (be16 p.tid ++ serTail c p))) k := by
  rw [Nat.add_assoc, byteAt_ser_afterPath]
  exact byteAt_append_of_eq (by simp) _

theorem byteAt_ser_afterRpath (k : Nat) : byteAt (ser c p) (p.pathLen.toNat + 4 + p.rpathLen.toNat + k) =
    byteAt ([p.src] ++ (be16 p.tid ++ serTail c p)) k := by
  rw [Nat.add_assoc, byteAt_ser_afterKey]
  exact byteAt_append_of_eq (by simp) _

theorem byteAt_ser_afterTid (k : Nat) : byteAt (ser c p) (p.pathLen.toNat + 4 + p.rpathLen.toNat + 3 + k) =
    byteAt (serTail c p) k := by
  rw [Nat.add_assoc, byteAt_ser_afterRpath, ← List.append_assoc]
  exact byteAt_append_of_eq rfl _

/-- A command's tail begins with a zero byte and the address. -/
theorem serTail_of_isCmd (h : isCmd p.instr = true) :
    serTail c p = 0x00 :: (be32 p.addr ++ (serRsvd c p ++ serDlen c p)) := by
  rw [serTail, serAddr, if_pos h]
  rfl

theorem byteAt_serTail_rsvd (h : hasRsvd c p.instr = true) :
    byteAt (serTail c p) (if isCmd p.instr then 5 else 0) = 0x00 := by
  rw [serTail, byteAt_append_of_eq (m := 0) (length_serAddr p).symm, serRsvd, if_pos h]
  rfl

theorem byteAt_serTail_dlen (h : omitsDlen c p.instr = false) (k : Nat) :
    byteAt (serTail c p) ((if isCmd p.instr then 5 else 0) + (if hasRsvd c p.instr then 1 else 0) + k) =
      byteAt (be24 p.dlen ++ []) k := by
  rw [serTail, ← List.append_assoc, byteAt_append_of_eq (by rw [List.length_append, length_serAddr, length_serRsvd]),
    serDlen, h, List.append_nil]
  rfl

theorem headerSize_lt : headerSize c p < 2 ^ 32 := by
  unfold headerSize baseLen
  split_ifs <;> omega

end

/-! ### The commands -/

theorem exec_hdrSize_of_legal {s : State} (h : legalCode (codeOf s.pkt.instr) = true) :
    exec .hdrSize s = .next (finishWith .ok (wordOfNat (headerSize s.cfg s.pkt)) s) :=
  congrArg Host.Outcome.next (if_neg (by simp [h]))

theorem exec_serialize_of_not_rangeOK {s : State} (h : legalCode (codeOf s.pkt.instr) = true)
    (hr : rangeOK s.cfg s.larg0.toNat (ser s.cfg s.pkt).length = false) :
    exec .serialize s = .next (finish .eBus s) :=
  congrArg Host.Outcome.next ((if_neg (by simp [h])).trans (if_pos (by simp [State.rangeOK, State.a0, hr])))

theorem exec_serialize_of_rangeOK {s : State} (h : legalCode (codeOf s.pkt.instr) = true)
    (hr : rangeOK s.cfg s.larg0.toNat (ser s.cfg s.pkt).length = true) :
    exec .serialize s = .next (finishWith .ok (wordOfNat (ser s.cfg s.pkt).length)
      { s with lmem := Memory.write s.lmem s.larg0.toNat (ser s.cfg s.pkt) }) :=
  congrArg Host.Outcome.next ((if_neg (by simp [h])).trans (if_neg (by simp [State.rangeOK, State.a0, hr])))

/-- A byte outside the range of a MemWrite reads as before (R46). -/
theorem Memory.readByte_write_of_outside {m : List Host.Cell} (hm : Memory.wf m) {a b : Nat} {x : List Byte}
    (h : b < a ∨ a + x.length ≤ b) : Memory.readByte (Memory.write m a x) b = Memory.readByte m b := by
  rw [Memory.readByte_write hm, if_neg (by omega)]

/-! ### The obligations -/

/-- Settles O19: each field is read past the fields before it, whose lengths add up to its position. -/
theorem serializedBytes : Obligations.SerializedBytes := by
  intro c p b n rl o o' o''
  have hpath : ∀ k, byteAt b (n + k) = _ := byteAt_ser_afterPath c p
  have hkey : ∀ k, byteAt b (n + 4 + k) = _ := byteAt_ser_afterKey c p
  have hrpath : ∀ k, byteAt b (n + 4 + rl + k) = _ := byteAt_ser_afterRpath c p
  have htail : ∀ k, byteAt b (o + k) = byteAt (serTail c p) k := byteAt_ser_afterTid c p
  have htid : ∀ k, byteAt b (n + 4 + rl + 1 + k) = byteAt (be16 p.tid ++ serTail c p) k := fun k => by
    rw [Nat.add_assoc, hrpath]
    exact byteAt_append_of_eq rfl _
  obtain ⟨htidHigh, htidLow⟩ := toNat_bytes_of_be16 htid
  refine ⟨?length, fun k hk => ?path, hpath 0, hpath 1, hpath 2, hpath 3, fun k hk => ?rpath, hrpath 0, htidHigh,
    htidLow, fun hcmd => ⟨?zero, toNat_bytes_of_be32 (q := serRsvd c p ++ serDlen c p) fun k => ?addr⟩, fun hrsvd => ?rsvd,
    fun homit => toNat_bytes_of_be24 (q := []) fun k => ?dlen⟩
  case length =>
    simp only [b, length_ser_eq_headerSize, headerSize, baseLen, o'', o', o]
    omega
  case path => exact (congrArg (byteAt · k) (ser_eq_append c p)).trans (byteAt_pathBytes _ hk _)
  case rpath => exact (hkey k).trans (byteAt_pathBytes _ hk _)
  case zero => exact (htail 0).trans (congrArg (byteAt · 0) (serTail_of_isCmd c p hcmd))
  case addr =>
    rw [Nat.add_assoc, htail, serTail_of_isCmd c p hcmd]
    exact byteAt_append_of_eq (a := [0x00]) rfl _
  case rsvd => exact (htail _).trans (byteAt_serTail_rsvd c p hrsvd)
  case dlen =>
    rw [← byteAt_serTail_dlen c p homit, ← htail]
    simp only [o'', o', Nat.add_assoc]

/-- Settles O27: the header size is the length of `ser(PKT)` and far below 2^32. -/
theorem headerSizeCommand : Obligations.HeaderSize := by
  refine ⟨.of_decode rfl, .of_lookup .n rfl, fun _ => exec_hdrSize_of_illegal,
    fun s h => ⟨_, exec_hdrSize_of_legal h, ?sum, ?length⟩⟩
  case sum => exact Nat.mod_eq_of_lt (headerSize_lt s.cfg s.pkt)
  case length => exact (Nat.mod_eq_of_lt (headerSize_lt s.cfg s.pkt)).trans (length_ser_eq_headerSize s.cfg s.pkt).symm

/-- Settles O28: the checks one after another; the bytes stored read back, and those outside the range as before. -/
theorem serializeCommand : Obligations.SerializeCommand :=
  ⟨.of_decode rfl, .of_lookup .n rfl, fun _ => ⟨exec_serialize_of_illegal, exec_serialize_of_not_rangeOK,
    fun h hr hm => ⟨_, exec_serialize_of_rangeOK h hr, rfl, Memory.read_write hm _ _,
      fun _ ha => Memory.readByte_write_of_outside hm ha⟩⟩⟩

end Sys2Proof.Machine
end

section
/-! PROOFS. Parsing (spec/41_codec.md R99, R100, R103): the checks and the extracted fields in the numbers of the rules,
and the command PARSE. -/

namespace Sys2Proof.Machine

/-! ### The numbers of R99 -/

/-- The reply path's length of a packet with instruction byte `ib`, as a number (R99). -/
def replyPathLength (ib : Byte) : Nat := if isCmd ib then 4 * (ib.toNat % 4) else 0

/-- The offset of the header CRC (R99). -/
def headerLength (c : Config) (ib : Byte) : Nat := baseLen c ib + replyPathLength ib

/-- The data length as a number, its three bytes standing before the header CRC (R99). -/
def dataLength (c : Config) (b : List Byte) : Nat :=
  let h := headerLength c (byteAt b 2)
  if omitsDlen c (byteAt b 2) then 0
  else 2 ^ 16 * (byteAt b (h - 3)).toNat + 2 ^ 8 * (byteAt b (h - 2)).toNat + (byteAt b (h - 1)).toNat

theorem parsedRpathLen_eq (ib : Byte) : parsedRpathLen ib = replyPathLength ib := by
  rw [parsedRpathLen, replyPathLength, toNat_ralOf]

theorem offsetOfHcrc_eq_headerLength (c : Config) (ib : Byte) : offsetOfHcrc c ib = headerLength c ib := by
  rw [offsetOfHcrc_eq, parsedRpathLen_eq, headerLength]

theorem toNat_rdBe16 (b : List Byte) (i : Nat) :
    (rdBe16 b i).toNat = 2 ^ 8 * (byteAt b i).toNat + (byteAt b (i + 1)).toNat :=
  toNat_append_eq_add ..

theorem toNat_rdBe24 (b : List Byte) (i : Nat) :
    (rdBe24 b i).toNat =
      2 ^ 16 * (byteAt b i).toNat + 2 ^ 8 * (byteAt b (i + 1)).toNat + (byteAt b (i + 2)).toNat := by
  rw [rdBe24, toNat_append_eq_add, toNat_append_eq_add]
  omega

theorem toNat_rdBe32 (b : List Byte) (i : Nat) :
    (rdBe32 b i).toNat =
      2 ^ 24 * (byteAt b i).toNat + 2 ^ 16 * (byteAt b (i + 1)).toNat + 2 ^ 8 * (byteAt b (i + 2)).toNat +
        (byteAt b (i + 3)).toNat := by
  rw [rdBe32, toNat_append_eq_add, toNat_append_eq_add, toNat_append_eq_add]
  omega

theorem toNat_parsedDlen (c : Config) (b : List Byte) : (parsedDlen c b).toNat = dataLength c b := by
  unfold parsedDlen dataLength
  rw [← offsetOfHcrc_eq_headerLength, offsetOfHcrc]
  split
  case isTrue => rfl
  case isFalse => exact toNat_rdBe24 ..

theorem parsedDlen_eq_zero_iff (c : Config) (b : List Byte) : parsedDlen c b = 0 ↔ dataLength c b = 0 := by
  rw [← toNat_parsedDlen]
  exact BitVec.toNat_eq

/-- The fields of a packet at their offsets, as numbers (R99). -/
def numberedFields (c : Config) (b : List Byte) : Parsed :=
  let ib := byteAt b 2
  let rl := replyPathLength ib
  let h := headerLength c ib
  let n := dataLength c b
  let need := if n = 0 then h + 1 else h + 1 + n + 1
  { dst := byteAt b 0
    ib := ib
    key := byteAt b 3
    src := byteAt b (4 + rl)
    tid := rdBe16 b (5 + rl)
    addr := if isCmd ib then rdBe32 b (8 + rl) else 0
    dlen := parsedDlen c b
    rl := rl
    rpath := slice b 4 rl
    hdrLen := h
    hcrc := byteAt b h
    dcrc := if n = 0 then 0 else byteAt b (h + 1 + n)
    payload := slice b (h + 1) n
    need := need
    long := need < b.length }

/-- The parser's extraction is the one of R99. -/
theorem prsFields_eq_numberedFields (c : Config) (b : List Byte) : prsFields c b = numberedFields c b := by
  have htid : 4 + replyPathLength (byteAt b 2) + 1 = 5 + replyPathLength (byteAt b 2) := by omega
  have haddr : 4 + replyPathLength (byteAt b 2) + 3 + 1 = 8 + replyPathLength (byteAt b 2) := by omega
  simp only [prsFields, numberedFields, offsetAfterTid, parsedRpathLen_eq, offsetOfHcrc_eq_headerLength,
    toNat_parsedDlen, parsedDlen_eq_zero_iff, htid, haddr]

theorem toNat_numberedFields_tid (c : Config) (b : List Byte) : (numberedFields c b).tid.toNat =
    2 ^ 8 * (byteAt b (5 + replyPathLength (byteAt b 2))).toNat +
      (byteAt b (6 + replyPathLength (byteAt b 2))).toNat := by
  rw [show 6 + replyPathLength (byteAt b 2) = 5 + replyPathLength (byteAt b 2) + 1 by omega]
  exact toNat_rdBe16 ..

theorem toNat_numberedFields_addr (c : Config) (b : List Byte) : (numberedFields c b).addr.toNat =
    if isCmd (byteAt b 2) then
      2 ^ 24 * (byteAt b (8 + replyPathLength (byteAt b 2))).toNat +
        2 ^ 16 * (byteAt b (9 + replyPathLength (byteAt b 2))).toNat +
        2 ^ 8 * (byteAt b (10 + replyPathLength (byteAt b 2))).toNat +
        (byteAt b (11 + replyPathLength (byteAt b 2))).toNat
    else 0 := by
  generalize hrl : replyPathLength (byteAt b 2) = rl
  rw [show 9 + rl = 8 + rl + 1 by omega, show 10 + rl = 8 + rl + 2 by omega, show 11 + rl = 8 + rl + 3 by omega,
    ← toNat_rdBe32, numberedFields, hrl, apply_ite BitVec.toNat]
  rfl

theorem isReservedIb_iff (ib : Byte) : isReservedIb ib = true ↔ 128 ≤ ib.toNat :=
  (Bool.eq_iff_iff.mp (BitVec.msb_eq_decide ib)).trans decide_eq_true_iff

theorem toNat_codeOf (ib : Byte) : (codeOf ib).toNat = ib.toNat / 4 % 16 := by
  rw [codeOf, BitVec.extractLsb'_toNat, Nat.shiftRight_eq_div_pow]

/-! ### The checks of R100 -/

/-- What each check finds wrong, in the numbers of R99 and R100. -/
def ParseFail.Holds (c : Config) (pcrc : Bool) (b : List Byte) : ParseFail → Prop
  | .protocolId => b.length < 3 ∨ byteAt b 1 ≠ 0x01
  | .instruction => 128 ≤ (byteAt b 2).toNat ∨ (byteAt b 2).toNat / 4 % 16 ∈ [0x0, 0x1, 0x4, 0x5, 0x6]
  | .short => b.length < baseLen c (byteAt b 2) + 1
  | .replyPath =>
    isCmd (byteAt b 2) = true ∧ b.length < baseLen c (byteAt b 2) + 4 * ((byteAt b 2).toNat % 4) + 1
  | .data => 0 < dataLength c b ∧ b.length < headerLength c (byteAt b 2) + 1 + dataLength c b + 1
  | .crc =>
    let h := headerLength c (byteAt b 2)
    pcrc = true ∧
      (crc8 (slice b 0 h) ≠ byteAt b h ∨
        (0 < dataLength c b ∧ crc8 (slice b (h + 1) (dataLength c b)) ≠ byteAt b (h + 1 + dataLength c b)))

open Classical in
/-- The first check that finds something wrong is the failure. -/
theorem prsCheck_eq (c : Config) (pcrc : Bool) (b : List Byte) : prsCheck c pcrc b =
    if ParseFail.Holds c pcrc b .protocolId then some .protocolId
    else if ParseFail.Holds c pcrc b .instruction then some .instruction
    else if ParseFail.Holds c pcrc b .short then some .short
    else if ParseFail.Holds c pcrc b .replyPath then some .replyPath
    else if ParseFail.Holds c pcrc b .data then some .data
    else if ParseFail.Holds c pcrc b .crc then some .crc
    else none := by
  have hpos : parsedDlen c b ≠ 0 ↔ 0 < dataLength c b := by
    rw [Nat.pos_iff_ne_zero]
    exact not_congr (parsedDlen_eq_zero_iff c b)
  refine if_congr ?protocolId rfl <| if_congr ?instruction rfl <| if_congr ?short rfl <| if_congr ?replyPath rfl <|
    if_congr ?data rfl <| if_congr ?crc rfl rfl
  case protocolId => simp [ParseFail.Holds]
  case instruction =>
    simp only [Bool.or_eq_true, Bool.not_eq_true', isReservedIb_iff, legalCode_eq_false_iff, toNat_codeOf,
      ParseFail.Holds]
  case short => exact Iff.rfl
  case replyPath => simp only [Bool.and_eq_true, decide_eq_true_eq, toNat_ralOf, ParseFail.Holds]
  case data =>
    simp only [Bool.and_eq_true, bne_iff_ne, decide_eq_true_eq, ParseFail.Holds, prsFields_eq_numberedFields,
      numberedFields, hpos, toNat_parsedDlen]
  case crc =>
    simp only [Bool.and_eq_true, Bool.or_eq_true, bne_iff_ne, ParseFail.Holds, prsFields_eq_numberedFields,
      numberedFields, hpos]
    refine and_congr_right fun _ => or_congr_right (and_congr_right fun h => ?_)
    rw [if_neg h.ne']

/-! ### What a parse that succeeds says -/

section
variable {c : Config} {pcrc : Bool} {b : List Byte} {r : Parsed} (h : prs c pcrc b = .ok r)
include h

/-- The packet lies inside the buffer. -/
theorem need_le_length : r.need ≤ b.length := by
  obtain ⟨hcheck, rfl⟩ := (prs_ok_iff ..).mp h
  obtain ⟨-, hhdr, hdata⟩ := length_of_prsCheck hcheck
  simp only [prsFields]
  split
  case isTrue => exact hhdr
  case isFalse hd => exact hdata hd

theorem length_parsed_rpath : r.rpath.length = r.rl := by
  obtain ⟨hcheck, rfl⟩ := (prs_ok_iff ..).mp h
  obtain ⟨-, hhdr, -⟩ := length_of_prsCheck hcheck
  have hbase : 7 ≤ baseLen c (byteAt b 2) := by
    unfold baseLen
    omega
  rw [offsetOfHcrc_eq] at hhdr
  simp only [prsFields, slice, List.length_take, List.length_drop]
  omega

end

/-! ### The command -/

section
variable {s : State} (hr : rangeOK s.cfg s.larg0.toNat s.larg1.toNat = true)

theorem exec_parse_of_not_rangeOK (h : rangeOK s.cfg s.larg0.toNat s.larg1.toNat = false) :
    exec .parse s = .next (finish .eBus s) :=
  congrArg Host.Outcome.next (if_pos (by simp [State.rangeOK, State.a0, State.a1, h]))

include hr

theorem exec_parse_of_prs_error {e : ParseFail}
    (h : prs s.cfg s.ctrl.pcrc (Memory.read s.lmem s.larg0.toNat s.larg1.toNat) = .error e) :
    exec .parse s = .next (finish .eParse s) := by
  have hprs : prs s.cfg s.ctrl.pcrc (s.memRead s.a0 s.a1) = .error e := h
  rw [exec, execParse, if_neg (by simp [State.rangeOK, State.a0, State.a1, hr]), hprs]

variable {r : Parsed} (h : prs s.cfg s.ctrl.pcrc (Memory.read s.lmem s.larg0.toNat s.larg1.toNat) = .ok r)
include h

/-- With a buffer that parses, the range of the payload decides. -/
theorem exec_parse_of_prs_ok : exec .parse s = .next
    (if !rangeOK s.cfg s.larg2.toNat r.dlen.toNat then finish .eBus s
    else finishWith .ok (wordOfNat r.need)
      (({ s with pkt := parsedPkt s.pkt r }.memWrite s.larg2.toNat r.payload).warnLong r.long)) := by
  have hprs : prs s.cfg s.ctrl.pcrc (s.memRead s.a0 s.a1) = .ok r := h
  rw [exec, execParse, if_neg (by simp [State.rangeOK, State.a0, State.a1, hr]), hprs]
  rfl

theorem exec_parse_of_payload_not_rangeOK (ha : rangeOK s.cfg s.larg2.toNat r.dlen.toNat = false) :
    exec .parse s = .next (finish .eBus s) :=
  (exec_parse_of_prs_ok hr h).trans (congrArg Host.Outcome.next (if_pos (by simp [ha])))

theorem exec_parse_of_payload_rangeOK (ha : rangeOK s.cfg s.larg2.toNat r.dlen.toNat = true) :
    exec .parse s = .next (finishWith .ok (wordOfNat r.need)
      (({ s with pkt := parsedPkt s.pkt r }.memWrite s.larg2.toNat r.payload).warnLong r.long)) :=
  (exec_parse_of_prs_ok hr h).trans (congrArg Host.Outcome.next (if_neg (by simp [ha])))

end

/-- The whole state after a PARSE that succeeds (R102, R103). -/
theorem finishWith_warnLong (s : State) (v : Word) (long : Bool) : finishWith .ok v (s.warnLong long) =
    { s with
      status := { code := .ok, busy := false, warnLong := s.status.warnLong || long, ovr := s.status.ovr }
      drainMode := .none
      result := v
      longWarns := if long then s.longWarns + 1 else s.longWarns } := by
  cases long <;> simp [finishWith, finish, State.warnLong]

/-! ### The obligations -/

/-- Settles O20: the checks are those of R100 in numbers, one after another, and a parse that succeeds is the extraction
of R99 in numbers. -/
theorem parseFunction : Obligations.ParseFunction := by
  intro c pcrc b len ib rl h dlen noProtocol badInstruction noHeader noReplyPath noData badCrc
  have fails : ∀ {e}, prsCheck c pcrc b = some e → prs c pcrc b = .error e := (prs_error_iff ..).mpr
  have pass1 := fun hp : ¬ noProtocol => (prsCheck_eq c pcrc b).trans (if_neg hp)
  have pass2 := fun hp (hi : ¬ badInstruction) => (pass1 hp).trans (if_neg hi)
  have pass3 := fun hp hi (hs : ¬ noHeader) => (pass2 hp hi).trans (if_neg hs)
  have pass4 := fun hp hi hs (hr : ¬ noReplyPath) => (pass3 hp hi hs).trans (if_neg hr)
  have pass5 := fun hp hi hs hr (hd : ¬ noData) => (pass4 hp hi hs hr).trans (if_neg hd)
  have pass6 := fun hp hi hs hr hd (hc : ¬ badCrc) => (pass5 hp hi hs hr hd).trans (if_neg hc)
  refine ⟨fun hp => fails ((prsCheck_eq c pcrc b).trans (if_pos hp)),
    fun hp hi => fails ((pass1 hp).trans (if_pos hi)),
    fun hp hi hs => fails ((pass2 hp hi).trans (if_pos hs)),
    fun hp hi hs hr => fails ((pass3 hp hi hs).trans (if_pos hr)),
    fun hp hi hs hr hd => fails ((pass4 hp hi hs hr).trans (if_pos hd)),
    fun hp hi hs hr hd hc => fails ((pass5 hp hi hs hr hd).trans (if_pos hc)),
    fun hp hi hs hr hd hc => ?fields⟩
  have hok : prs c pcrc b = .ok (numberedFields c b) :=
    (prs_ok_iff ..).mpr ⟨pass6 hp hi hs hr hd hc, prsFields_eq_numberedFields c b⟩
  exact ⟨numberedFields c b, hok, rfl, rfl, rfl, rfl, rfl, rfl, toNat_numberedFields_tid c b,
    toNat_numberedFields_addr c b, toNat_parsedDlen c b, rfl, rfl, rfl,
    (payload_length hok).trans (toNat_parsedDlen c b), rfl, rfl, need_le_length hok, decide_eq_true_iff⟩

/-- Settles O29: the checks one after another; the payload stored reads back, and the reply path goes over the first
bytes of its buffer. -/
theorem parseCommand : Obligations.ParseCommand := by
  refine ⟨.of_decode rfl, .of_lookup .n rfl, fun s => ⟨exec_parse_of_not_rangeOK,
    fun _ hr => exec_parse_of_prs_error hr, fun r hr h => ⟨exec_parse_of_payload_not_rangeOK hr h, fun ha hm =>
      ⟨_, (exec_parse_of_payload_rangeOK hr h ha).trans (congrArg _ (finishWith_warnLong ..)), rfl, rfl,
        fun k hk => ?rpath, fun k hk => ?laterRpath, ?payload, fun a hout => ?outside⟩⟩⟩⟩
  case rpath => exact byteAt_bufWrite_of_lt (by rwa [length_parsed_rpath h]) _
  case laterRpath => exact byteAt_bufWrite_of_ge (by rwa [length_parsed_rpath h]) _
  case payload => exact payload_length h ▸ Memory.read_write hm _ _
  case outside => exact Memory.readByte_write_of_outside hm (by rwa [payload_length h])

end Sys2Proof.Machine
end

section
/-! PROOFS. The frame of the packet codec (spec/41_codec.md R105): what any of its commands can do, said once, and which
bytes of local memory change. -/

namespace Sys2Proof.Machine

/-- `t` agrees with `s` outside PKT, STATUS, RESULT, LONG_WARNS and local memory. -/
def CodecWrites (s t : State) : Prop :=
  t = { s with pkt := t.pkt, status := t.status, result := t.result, longWarns := t.longWarns, lmem := t.lmem }

theorem CodecWrites.finish {s t : State} (h : CodecWrites s t) (hd : s.drainMode = .none) (c : Code) :
    CodecWrites s (finish c t) := by
  have hdt : t.drainMode = .none := (congrArg State.drainMode h).trans hd
  rw [finish_of_drainMode_none hdt, h]
  rfl

theorem CodecWrites.finishWith {s t : State} (h : CodecWrites s t) (hd : s.drainMode = .none) (c : Code) (v : Word) :
    CodecWrites s (finishWith c v t) :=
  .finish (t := { t with result := v }) (by rw [h]; rfl) hd c

/-- What a codec command does to local memory: nothing, or the one store of SERIALIZE or of PARSE (R98, R103, R105). -/
inductive CodecStores (i : Instr) (s t : State) : Prop
  | nothing (h : t.lmem = s.lmem)
  | header (hi : i = .serialize) (h : t.lmem = Memory.write s.lmem s.larg0.toNat (ser s.cfg s.pkt))
  | payload (hi : i = .parse) (r : Parsed)
      (hr : prs s.cfg s.ctrl.pcrc (Memory.read s.lmem s.larg0.toNat s.larg1.toNat) = .ok r)
      (h : t.lmem = Memory.write s.lmem s.larg2.toNat r.payload)

/-- A codec command ended: the parts of the state it wrote, and its store. -/
structure CodecEnd (i : Instr) (s t : State) : Prop where
  writes : CodecWrites s t
  stores : CodecStores i s t

namespace CodecEnd

variable {i : Instr} {s a b : State}

theorem code (hd : s.drainMode = .none) (c : Code) : CodecEnd i s (Machine.finish c s) :=
  ⟨.finish (t := s) rfl hd c, .nothing rfl⟩

theorem answer (hd : s.drainMode = .none) (c : Code) (v : Word) : CodecEnd i s (Machine.finishWith c v s) :=
  ⟨.finishWith (t := s) rfl hd c v, .nothing rfl⟩

theorem packet (hd : s.drainMode = .none) (p : Pkt) : CodecEnd i s (Machine.finish .ok { s with pkt := p }) :=
  ⟨.finish (t := { s with pkt := p }) rfl hd .ok, .nothing rfl⟩

theorem ite {p : Prop} [Decidable p] (ht : CodecEnd i s a) (hf : CodecEnd i s b) :
    CodecEnd i s (if p then a else b) := by
  split
  · exact ht
  · exact hf

end CodecEnd

section
variable {s : State} (hd : s.drainMode = .none)
include hd

theorem execSerialize_codecEnd : ∃ t, exec .serialize s = .next t ∧ CodecEnd .serialize s t :=
  ⟨_, rfl, .ite (.code hd _) <| .ite (.code hd _)
    ⟨.finishWith (t := s.memWrite s.a0 (ser s.cfg s.pkt)) rfl hd _ _, .header rfl rfl⟩⟩

theorem execParse_codecEnd : ∃ t, exec .parse s = .next t ∧ CodecEnd .parse s t := by
  refine ⟨_, rfl, .ite (.code hd _) ?_⟩
  split
  case h_1 => exact .code hd _
  case h_2 r hr =>
    refine .ite (.code hd _) ⟨?_, .payload rfl r hr (by cases r.long <;> rfl)⟩
    rw [finishWith_warnLong, ← hd]
    rfl

theorem execPktGet_codecEnd (sel : BitVec 4) (idx : Byte) :
    ∃ t, exec (.pktGet sel idx) s = .next t ∧ CodecEnd (.pktGet sel idx) s t := by
  refine ⟨_, rfl, ?_⟩
  split
  · exact .code hd _
  · exact .answer hd _ _

/-- What any codec command can do. -/
theorem exec_codecEnd {i : Instr} (hi : unitOf i = .codec) : ∃ t, exec i s = .next t ∧ CodecEnd i s t := by
  cases i with
  | pktClear | pktSetDst | pktSetSrc | pktSetKey | pktSetReply | pktSetTid | pktSetAddr => exact ⟨_, rfl, .packet hd _⟩
  | pktSetCmd | pktSetDlen => exact ⟨_, rfl, .ite (.code hd _) (.packet hd _)⟩
  | pktSetPath | pktSetRpath => exact ⟨_, rfl, .ite (.code hd _) (.ite (.code hd _) (.packet hd _))⟩
  | pktGet sel idx => exact execPktGet_codecEnd hd sel idx
  | hdrSize => exact ⟨_, rfl, .ite (.code hd _) (.answer hd _ _)⟩
  | serialize => exact execSerialize_codecEnd hd
  | parse => exact execParse_codecEnd hd
  | _ => cases hi

end

/-- A byte that a MemWrite changed lies in its range (R46). -/
theorem Memory.mem_range_of_write_ne {m : List Host.Cell} (hm : Memory.wf m) {a b : Nat} {x : List Byte}
    (h : Memory.readByte (Memory.write m a x) b ≠ Memory.readByte m b) : a ≤ b ∧ b < a + x.length := by
  by_contra hout
  exact h (Memory.readByte_write_of_outside hm (by omega))

/-! ### The obligation -/

/-- Settles O22: of what a codec command can do, only the stores of SERIALIZE and PARSE reach local memory. -/
theorem codecFrame : Obligations.CodecFrame := by
  intro i s hi hm hd
  obtain ⟨t, hexec, hwrites, hstores⟩ := exec_codecEnd hd hi
  refine ⟨t, hexec, hwrites, fun a hne => ?_⟩
  cases hstores with
  | nothing h => exact absurd (congrArg (Memory.readByte · a) h) hne
  | header hser h => exact .inl ⟨hser, Memory.mem_range_of_write_ne hm (h ▸ hne)⟩
  | payload hparse r hr h =>
    exact .inr ⟨hparse, r, hr, payload_length hr ▸ Memory.mem_range_of_write_ne hm (h ▸ hne)⟩

end Sys2Proof.Machine
end

section
/-! PROOFS. The packets that stand in the rings (spec/42_transport.md R107, R115, R127, R128): what each ring procedure
and each link step does to the packets queued and to the packets received. -/

namespace Sys2Proof.Machine

/-! ### Packets queued in the TX ring -/

/-- The packets of the enabled descriptors of the busy queue, in its order. -/
def TxRing.queued (r : TxRing) : List (List Byte) := (r.busy.filter fun i => (r.at i).en).map (txPacket r)

theorem queuedTx_eq (s : State) : s.queuedTx = s.tx.queued := rfl

/-- A descriptor's packet depends on the descriptor and its two buffers alone. -/
theorem txPacket_congr {r r' : TxRing} {i : Nat} (hat : r'.at i = r.at i) (hhdr : r'.hdr.getD i [] = r.hdr.getD i [])
    (hdata : r'.data.getD i [] = r.data.getD i []) : txPacket r' i = txPacket r i := by
  simp only [txPacket, TxRing.hdrBytes, TxRing.dataBytes, hat, hhdr, hdata]

/-- Descriptors that both rings hold with the same buffers have the same packets queued. -/
theorem map_txPacket_filter_congr {r r' : TxRing} {l : List Nat} (hat : ∀ j ∈ l, r'.at j = r.at j)
    (hhdr : ∀ j ∈ l, r'.hdr.getD j [] = r.hdr.getD j []) (hdata : ∀ j ∈ l, r'.data.getD j [] = r.data.getD j []) :
    (l.filter fun j => (r'.at j).en).map (txPacket r') = (l.filter fun j => (r.at j).en).map (txPacket r) := by
  rw [List.filter_congr fun j hj => by rw [hat j hj]]
  refine List.map_congr_left fun j hj => ?_
  have hl := List.mem_of_mem_filter hj
  exact txPacket_congr (hat j hl) (hhdr j hl) (hdata j hl)

/-- Reclamation takes descriptors whose packets are sent (R112). -/
theorem queued_txReclaim (r : TxRing) : (txReclaim r).queued = r.queued := by
  obtain ⟨drained, hbusy, -, hoff, -⟩ := txReclaim_spec r
  have hnone : drained.filter (fun i => (r.at i).en) = [] := List.filter_eq_nil_iff.mpr (by simpa using hoff)
  rw [TxRing.queued, TxRing.queued, hbusy, List.filter_append, hnone]
  rfl

/-- `tx_fill` queues one packet behind the others (R113). -/
theorem queued_txFill {s : State} (hs : TxRingOk s) (hfree : s.tx.free ≠ []) (h : List Byte) (ncl : Byte)
    (x : List Byte) (ie : Bool) : ∃ p, (txFill s.tx h ncl x ie).queued = s.tx.queued ++ [p] := by
  obtain ⟨i, free, hf⟩ := List.exists_cons_of_ne_nil hfree
  have horder := hs.order
  rw [hf] at horder
  have hi : i < s.tx.desc.length := hs.descs ▸ horder.lt_of_mem_free (by simp)
  have hne : ∀ j ∈ s.tx.busy, j ≠ i := fun j hj => (List.nodup_append.mp horder.nodup).2.2 j hj i (by simp)
  obtain ⟨-, hbusy, -, hother, hfilled, -, -⟩ := txFill_spec s.tx h ncl x ie hf
  obtain ⟨-, hhdr, hdata⟩ := txFill_arena s.tx h ncl x ie hf
  have hon : ((txFill s.tx h ncl x ie).at i).en = true := by rw [hfilled hi]
  refine ⟨txPacket (txFill s.tx h ncl x ie) i, ?_⟩
  rw [TxRing.queued, hbusy, List.filter_append, List.map_append,
    map_txPacket_filter_congr (fun j hj => hother j (hne j hj)) (fun j hj => by rw [hhdr, getD_set_ne _ _ _ (hne j hj)])
      fun j hj => by rw [hdata, getD_set_ne _ _ _ (hne j hj)]]
  simp [TxRing.queued, hon]

/-- A busy queue cut at the link's pointer (R40): what stands before it is served, what stands behind it waits. -/
theorem RingOrder.cut_at_pointer {n p : Nat} {en : Nat → Bool} {busy free : List Nat} (h : RingOrder n en busy free p)
    (hp : en p = true) :
    ∃ served waiting, busy = served ++ p :: waiting ∧ p < n ∧ (∀ j ∈ served, en j = false ∧ j ≠ p) ∧
      ∀ j ∈ waiting, en j = true ∧ j ≠ p := by
  obtain ⟨served, waiting, rfl, hoff⟩ := h.split_at_pointer hp
  obtain ⟨-, hnodup, -⟩ := List.nodup_append.mp (List.nodup_append.mp h.nodup).1
  obtain ⟨-, hsorted, -⟩ := List.pairwise_append.mp h.drainedFirst
  refine ⟨served, waiting, rfl, h.lt_of_mem_busy (by simp), fun j hj => ⟨hoff j hj, ?_⟩, fun j hj => ⟨?_, ?_⟩⟩
  · rintro rfl
    simp [hoff j hj] at hp
  · exact (List.pairwise_cons.mp hsorted).1 j hj hp
  · rintro rfl
    exact (List.nodup_cons.mp hnodup).1 hj

/-- LINK_TX sends the first packet queued (R107, R128). -/
theorem queued_serve {s : State} (hs : TxRingOk s) (hen : (s.tx.at s.tx.lptr.toNat).en = true) :
    s.tx.queued = txPacket s.tx s.tx.lptr.toNat :: s.tx.serve.queued := by
  obtain ⟨served, waiting, hbusy, hp, hserved, hwaiting⟩ := hs.order.cut_at_pointer hen
  have hat := TxRing.at_set s.tx s.tx.serve rfl (hs.descs ▸ hp)
  have hbefore : served.filter (fun j => (s.tx.at j).en) = [] :=
    List.filter_eq_nil_iff.mpr fun j hj => by simp [(hserved j hj).1]
  have hafter : served.filter (fun j => (s.tx.serve.at j).en) = [] :=
    List.filter_eq_nil_iff.mpr fun j hj => by simp [hat, hserved j hj]
  have hrest := map_txPacket_filter_congr (r := s.tx) (r' := s.tx.serve) (l := waiting)
    (fun j hj => by rw [hat, if_neg (hwaiting j hj).2]) (fun _ _ => rfl) fun _ _ => rfl
  rw [TxRing.queued, TxRing.queued, show s.tx.serve.busy = s.tx.busy from rfl, hbusy, List.filter_append, hbefore,
    List.filter_append, hafter]
  simp [hen, hat, ← hrest]

/-! ### Packets received in the RX ring -/

/-- The packets of the drained descriptors of the busy queue, in its order. -/
def RxRing.ready (r : RxRing) : List (List Byte) :=
  (r.busy.filter fun i => !(r.at i).en).map fun i => r.bytes i (r.at i).size.toNat

theorem readyRx_eq (s : State) : s.readyRx = s.rx.ready := rfl

/-- Descriptors that both rings hold with the same buffers hold the same packets. -/
theorem map_bytes_filter_congr {r r' : RxRing} {l : List Nat} (hat : ∀ j ∈ l, r'.at j = r.at j)
    (hbuf : ∀ j ∈ l, r'.buf.getD j [] = r.buf.getD j []) :
    ((l.filter fun j => !(r'.at j).en).map fun j => r'.bytes j (r'.at j).size.toNat) =
      (l.filter fun j => !(r.at j).en).map fun j => r.bytes j (r.at j).size.toNat := by
  rw [List.filter_congr fun j hj => by rw [hat j hj]]
  refine List.map_congr_left fun j hj => ?_
  have hl := List.mem_of_mem_filter hj
  rw [RxRing.bytes, RxRing.bytes, hat j hl, hbuf j hl]

theorem ready_nil_of_rxHead_none {s : State} (hs : RxRingOk s) (h : rxHead s.rx = none) : s.rx.ready = [] := by
  cases hb : s.rx.busy with
  | nil => simp [RxRing.ready, hb]
  | cons i rest =>
    have hon : (s.rx.at i).en = true := by simpa [rxHead, hb] using h
    have hall := hs.order.drainedFirst
    rw [hb] at hall
    have hrest : ∀ j ∈ rest, (s.rx.at j).en = true := fun j hj => (List.pairwise_cons.mp hall).1 j hj hon
    have hnone : s.rx.busy.filter (fun j => !(s.rx.at j).en) = [] :=
      List.filter_eq_nil_iff.mpr (by simpa [hb, hon] using hrest)
    rw [RxRing.ready, hnone, List.map_nil]

/-- Re-arming takes the first packet received away (R116, R127). -/
theorem ready_rxRearm {s : State} (hs : RxRingOk s) {i : Nat} (hready : rxHead s.rx = some i) (ie : Bool) :
    s.rx.ready = s.rx.bytes i (s.rx.at i).size.toNat :: (rxRearm s.rx ie).ready := by
  obtain ⟨⟨rest, hb⟩, hoff⟩ := (rxHead_eq_some_iff ..).mp hready
  have hf : s.rx.free = [] := hs.armed.resolve_left (by simp [hb])
  have horder := hs.order
  rw [hb] at horder
  have hi : i < s.rx.desc.length := hs.descs ▸ horder.lt_of_mem_busy (by simp)
  have hnot : i ∉ rest := (List.nodup_cons.mp (List.nodup_append.mp horder.nodup).1).1
  obtain ⟨-, hbusy, -, hbuf, hother, harmed⟩ := rxRearm_spec s.rx ie hb hf
  have hon : ((rxRearm s.rx ie).at i).en = true := by rw [harmed hi]
  have hrest : (rxRearm s.rx ie).ready =
      (rest.filter fun j => !(s.rx.at j).en).map fun j => s.rx.bytes j (s.rx.at j).size.toNat := by
    rw [RxRing.ready, hbusy, List.filter_append, List.filter_cons_of_neg (by simp [hon]), List.filter_nil,
      List.append_nil]
    exact map_bytes_filter_congr (fun j hj => hother j fun h => hnot (h ▸ hj)) fun j _ => by rw [hbuf]
  rw [hrest, RxRing.ready, hb, List.filter_cons_of_pos (by simp [hoff]), List.map_cons]

/-- A packet taken from the link stands in its descriptor, cut to RX_BUF bytes (R109). -/
theorem size_receive {s : State} (hs : RxRingOk s) (hbuf : s.cfg.rxBuf < 2 ^ 24) (hp : s.rx.lptr.toNat < s.cfg.nRx)
    (p : List Byte) :
    ((s.rx.receive s.cfg.rxBuf p).at s.rx.lptr.toNat).size.toNat = min p.length s.cfg.rxBuf := by
  rw [RxRing.at_set s.rx (s.rx.receive s.cfg.rxBuf p) rfl (hs.descs ▸ hp), if_pos rfl, BitVec.toNat_ofNat,
    Nat.mod_eq_of_lt (by omega)]

/-- What LINK_RX stored reads back (R109). -/
theorem bytes_receive {s : State} (hs : RxRingOk s) (hp : s.rx.lptr.toNat < s.cfg.nRx) (p : List Byte) :
    (s.rx.receive s.cfg.rxBuf p).bytes s.rx.lptr.toNat (min p.length s.cfg.rxBuf) =
      p.take (min p.length s.cfg.rxBuf) := by
  have hstored : (p.take (min p.length s.cfg.rxBuf)).length = min p.length s.cfg.rxBuf := by simp
  have hread := bufRead_bufWrite (Config.freeRxByte s.rx.lptr.toNat) (p.take (min p.length s.cfg.rxBuf))
    (s.rx.buf.getD s.rx.lptr.toNat [])
  rw [hstored] at hread
  rw [RxRing.bytes, RxRing.receive, getD_set_of_lt (hs.bufs ▸ hp), if_pos rfl, hread]

/-- LINK_RX puts the packet it takes behind those received (R109, R127). -/
theorem ready_receive {s : State} (hs : RxRingOk s) (hbuf : s.cfg.rxBuf < 2 ^ 24)
    (hen : (s.rx.at s.rx.lptr.toNat).en = true) (p : List Byte) :
    (s.rx.receive s.cfg.rxBuf p).ready = s.rx.ready ++ [p.take s.cfg.rxBuf] := by
  obtain ⟨served, waiting, hbusy, hp, hserved, hwaiting⟩ := hs.order.cut_at_pointer hen
  have hat := RxRing.at_set s.rx (s.rx.receive s.cfg.rxBuf p) rfl (hs.descs ▸ hp)
  have hbefore : waiting.filter (fun j => !(s.rx.at j).en) = [] :=
    List.filter_eq_nil_iff.mpr fun j hj => by simp [(hwaiting j hj).1]
  have hafter : waiting.filter (fun j => !((s.rx.receive s.cfg.rxBuf p).at j).en) = [] :=
    List.filter_eq_nil_iff.mpr fun j hj => by simp [hat, hwaiting j hj]
  have hold := map_bytes_filter_congr (r := s.rx) (r' := s.rx.receive s.cfg.rxBuf p) (l := served)
    (fun j hj => by rw [hat, if_neg (hserved j hj).2]) fun j hj => getD_set_ne _ _ _ (hserved j hj).2
  have hoff : ((s.rx.receive s.cfg.rxBuf p).at s.rx.lptr.toNat).en = false := by simp [hat]
  have hnew : (s.rx.receive s.cfg.rxBuf p).bytes s.rx.lptr.toNat
      ((s.rx.receive s.cfg.rxBuf p).at s.rx.lptr.toNat).size.toNat = p.take s.cfg.rxBuf := by
    rw [size_receive hs hbuf hp, bytes_receive hs hp, List.take_eq_take_iff]
    simp [Nat.min_comm]
  rw [RxRing.ready, RxRing.ready, show (s.rx.receive s.cfg.rxBuf p).busy = s.rx.busy from rfl, hbusy,
    List.filter_append, List.filter_append, List.filter_cons, List.filter_cons, hbefore, hafter]
  simp [hen, hoff, hold, hnew]

end Sys2Proof.Machine
end

section
/-! PROOFS. What a command and a drain step can do to the rings and to the link, said once (spec/42_transport.md R111,
spec/43_translog.md R143). -/

namespace Sys2Proof.Machine

/-! ### How a command leaves the rings -/

/-- The commands that queue a packet (R120, R140, R141). -/
def QueuesPacket (i : Instr) : Prop :=
  (∃ hlen ncl : Byte, i = .txEnqueue hlen ncl) ∨ i = .submitWrite ∨ i = .submitRead

/-- The commands that consume a packet (R122, R123). -/
def ConsumesPacket (i : Instr) : Prop := i = .rxFetch ∨ i = .rxDrop

/-- The configuration, TXOUT and the packets that wait on the link stay. -/
structure SameLink (s t : State) : Prop where
  cfg : t.cfg = s.cfg
  txOut : t.txOut = s.txOut
  rxWire : t.rxWire = s.rxWire

/-- The rings and all that `tx_fill` and `rearm_rx` read and touch besides them stay. -/
structure SameRings (s t : State) : Prop extends SameLink s t where
  ctrl : t.ctrl = s.ctrl
  tx : t.tx = s.tx
  rx : t.rx = s.rx

namespace SameRings

variable {s u a b : State}

theorem refl (s : State) : SameRings s s := ⟨⟨rfl, rfl, rfl⟩, rfl, rfl, rfl⟩

theorem finish (h : SameRings s u) (c : Code) : SameRings s (finish c u) :=
  ⟨⟨h.cfg, h.txOut, h.rxWire⟩, h.ctrl, h.tx, h.rx⟩

theorem finishWith (h : SameRings s u) (c : Code) (v : Word) : SameRings s (finishWith c v u) :=
  ⟨⟨h.cfg, h.txOut, h.rxWire⟩, h.ctrl, h.tx, h.rx⟩

/-- The command ends with a code and nothing else. -/
theorem code (c : Code) : SameRings s (Machine.finish c s) := (refl s).finish c

/-- The command ends with a code and a result and nothing else. -/
theorem answer (c : Code) (v : Word) : SameRings s (Machine.finishWith c v s) := (refl s).finishWith c v

/-- The command writes PKT and ends OK. -/
theorem packet (p : Pkt) : SameRings s (Machine.finish .ok { s with pkt := p }) := ⟨⟨rfl, rfl, rfl⟩, rfl, rfl, rfl⟩

theorem ite {p : Prop} [Decidable p] (ht : SameRings s a) (hf : SameRings s b) : SameRings s (if p then a else b) := by
  split
  · exact ht
  · exact hf

theorem grab {hd : Bool} {x : Word} {j : Nat} (h : s.grab hd x = some (j, u)) : SameRings s u := by
  obtain ⟨-, -, -, rfl⟩ := grab_some s hd x h
  exact ⟨⟨rfl, rfl, rfl⟩, rfl, rfl, rfl⟩

theorem release (s : State) (j : Nat) : SameRings s (s.release j) := by
  obtain ⟨slots, pend, h⟩ := release_frame s j
  rw [h]
  exact ⟨⟨rfl, rfl, rfl⟩, rfl, rfl, rfl⟩

theorem releaseAll (s : State) : SameRings s s.releaseAll := by
  obtain ⟨slots, pend, h⟩ := releaseAll_frame s
  rw [h]
  exact ⟨⟨rfl, rfl, rfl⟩, rfl, rfl, rfl⟩

end SameRings

/-- What a command can do to the rings, with the code it ends with. -/
inductive RingsEnd (i : Instr) (s t : State) : Prop
  /-- Neither ring is touched; a command that queues or consumes a packet then fails. -/
  | kept (htx : t.tx = s.tx) (hrx : t.rx = s.rx) (hcode : QueuesPacket i ∨ ConsumesPacket i → t.status.code ≠ .ok)
  /-- TX_INIT (R118). -/
  | txInit (hi : i = .txInit) (hrx : t.rx = s.rx)
  /-- RX_INIT (R119). -/
  | rxInit (hi : i = .rxInit) (htx : t.tx = s.tx)
  /-- No descriptor is free after reclamation, which is kept (R120). -/
  | reclaimed (hi : QueuesPacket i) (htx : t.tx = txReclaim s.tx) (hrx : t.rx = s.rx) (hcode : t.status.code ≠ .ok)
  /-- A free descriptor is filled (R120, R140, R141). -/
  | filled (hi : QueuesPacket i) (h : List Byte) (ncl : Byte) (x : List Byte) (hfree : (txReclaim s.tx).free ≠ [])
      (htx : t.tx = txFill (txReclaim s.tx) h ncl x s.ctrl.txie) (hrx : t.rx = s.rx) (hcode : t.status.code = .ok)
  /-- The packet at the head is consumed (R122, R123). -/
  | consumed (hi : ConsumesPacket i) (k : Nat) (hready : rxHead s.rx = some k) (htx : t.tx = s.tx)
      (hrx : t.rx = rxRearm s.rx s.ctrl.rxie) (hcode : t.status.code = .ok)

/-- A command ended, as the rings and the link see it. -/
structure LinkEnd (i : Instr) (s t : State) : Prop where
  link : SameLink s t
  rings : RingsEnd i s t

namespace LinkEnd

variable {i : Instr} {s u a b : State}

/-- A command that ends without OK and with nothing done. -/
theorem failed {c : Code} (hc : c ≠ .ok) (v : Word) : LinkEnd i s (finishWith c v s) :=
  ⟨⟨rfl, rfl, rfl⟩, .kept rfl rfl fun _ => hc⟩

theorem ite {p : Prop} [Decidable p] (ht : LinkEnd i s a) (hf : LinkEnd i s b) : LinkEnd i s (if p then a else b) := by
  split
  · exact ht
  · exact hf

/-- What TX_ENQUEUE and the SUBMITs do after their checks, from a state with the rings and the link as before. -/
theorem send (hi : QueuesPacket i) (hu : SameRings s u) (h : List Byte) (ncl : Byte) (x : List Byte) (v : Word) :
    LinkEnd i s
      (if u.txReclaim.tx.free.isEmpty then finishWith .eNodesc v u.txReclaim
      else finishWith .ok v (u.txReclaim.txFill h ncl x)) := by
  by_cases hfull : u.txReclaim.tx.free.isEmpty
  · rw [if_pos hfull]
    exact ⟨⟨hu.cfg, hu.txOut, hu.rxWire⟩, .reclaimed hi (congrArg txReclaim hu.tx) hu.rx (by simp)⟩
  · rw [if_neg hfull]
    refine ⟨⟨hu.cfg, hu.txOut, hu.rxWire⟩, .filled hi h ncl x ?_ (by simp [hu.tx, hu.ctrl]) hu.rx rfl⟩
    simpa [hu.tx] using hfull

/-- What RX_FETCH and RX_DROP do with the packet at the head. -/
theorem consume {k : Nat} (hi : ConsumesPacket i) (hready : rxHead s.rx = some k) (hu : SameRings s u) (v : Word) :
    LinkEnd i s (finishWith .ok v u.rxRearm) :=
  ⟨⟨hu.cfg, hu.txOut, hu.rxWire⟩, .consumed hi k hready hu.tx (by simp [hu.rx, hu.ctrl]) rfl⟩

end LinkEnd

/-! ### The commands -/

theorem execTxEnqueue_linkEnd (hlen ncl : Byte) (s : State) :
    ∃ t, exec (.txEnqueue hlen ncl) s = .next t ∧ LinkEnd (.txEnqueue hlen ncl) s t :=
  ⟨_, rfl, .ite (.failed (by simp) s.result) <| .ite (.failed (by simp) s.result) <|
    .ite (.failed (by simp) s.result) <| .send (.inl ⟨hlen, ncl, rfl⟩) (.refl s) _ _ _ s.result⟩

theorem execRxFetch_linkEnd (s : State) : ∃ t, exec .rxFetch s = .next t ∧ LinkEnd .rxFetch s t := by
  refine ⟨_, rfl, ?_⟩
  split
  case h_1 => exact .failed (by simp) _
  case h_2 k hready =>
    exact .ite (.failed (by simp) s.result)
      (.consume (u := { s.memWrite s.a0 (s.rx.bytes k (s.rx.at k).size.toNat) with rxBytes := _ }) (.inl rfl) hready
        ⟨⟨rfl, rfl, rfl⟩, rfl, rfl, rfl⟩ _)

theorem execRxDrop_linkEnd (s : State) : ∃ t, exec .rxDrop s = .next t ∧ LinkEnd .rxDrop s t := by
  refine ⟨_, rfl, ?_⟩
  split
  case h_1 => exact .failed (by simp) _
  case h_2 k hready => exact .consume (.inr rfl) hready (.refl s) _

/-- What a SUBMIT does once it has its slot. -/
theorem submitSend_linkEnd {i : Instr} (hi : QueuesPacket i) (code : BitVec 4) (x : List Byte) {hd : Bool} {a : Word}
    {j : Nat} {s u : State} (hg : s.grab hd a = some (j, u)) : LinkEnd i s (submitSend code x j u) := by
  exact .send hi (.grab hg) (ser u.cfg (managerPkt u.link code j u.larg0 (u.larg2.extractLsb' 0 24))) u.link.pathLen x
    (wordOfNat j)

theorem execSubmitWrite_linkEnd (s : State) : ∃ t, exec .submitWrite s = .next t ∧ LinkEnd .submitWrite s t := by
  refine ⟨_, rfl, .ite (.failed (by simp) s.result) <| .ite (.failed (by simp) s.result) <|
    .ite (.failed (by simp) s.result) ?_⟩
  split
  case h_1 => exact .failed (by simp) s.result
  case h_2 j u hg => exact submitSend_linkEnd (.inr (.inl rfl)) _ _ hg

theorem execSubmitRead_linkEnd (s : State) : ∃ t, exec .submitRead s = .next t ∧ LinkEnd .submitRead s t := by
  refine ⟨_, rfl, .ite (.failed (by simp) s.result) <| .ite (.failed (by simp) s.result) <|
    .ite (.failed (by simp) s.result) <| .ite (.failed (by simp) s.result) ?_⟩
  split
  case h_1 => exact .failed (by simp) s.result
  case h_2 j u hg => exact submitSend_linkEnd (.inr (.inr rfl)) _ _ hg

theorem execPktGet_sameRings (sel : BitVec 4) (idx : Byte) (s : State) :
    ∃ t, exec (.pktGet sel idx) s = .next t ∧ SameRings s t := by
  refine ⟨_, rfl, ?_⟩
  split
  · exact .code _
  · exact .answer _ _

theorem execParse_sameRings (s : State) : ∃ t, exec .parse s = .next t ∧ SameRings s t := by
  refine ⟨_, rfl, .ite (.code _) ?_⟩
  split
  · exact .code _
  · refine .ite (.code _) ?_
    rw [finishWith_warnLong]
    exact ⟨⟨rfl, rfl, rfl⟩, rfl, rfl, rfl⟩

theorem execRxPoll_sameRings (s : State) : ∃ t, exec .rxPoll s = .next t ∧ SameRings s t := by
  refine ⟨_, rfl, ?_⟩
  split
  · exact .answer _ _
  · exact .answer _ _

theorem execTlGrab_sameRings (hd : Bool) (s : State) : ∃ t, exec (.tlGrab hd) s = .next t ∧ SameRings s t := by
  refine ⟨_, rfl, ?_⟩
  split
  · exact .code _
  · rename_i j u hg
    exact (SameRings.grab hg).finishWith _ _

/-- The commands that are none of the transport's and no SUBMIT, and those of the transport that only look. -/
theorem exec_sameRings {i : Instr} (s : State) (hq : ¬ QueuesPacket i) (hc : ¬ ConsumesPacket i) (htx : i ≠ .txInit)
    (hrx : i ≠ .rxInit) : ∃ t, exec i s = .next t ∧ SameRings s t := by
  cases i with
  | txEnqueue hlen ncl => exact absurd (.inl ⟨hlen, ncl, rfl⟩) hq
  | submitWrite => exact absurd (.inr (.inl rfl)) hq
  | submitRead => exact absurd (.inr (.inr rfl)) hq
  | rxFetch => exact absurd (.inl rfl) hc
  | rxDrop => exact absurd (.inr rfl) hc
  | txInit => exact absurd rfl htx
  | rxInit => exact absurd rfl hrx
  | pktClear | pktSetDst | pktSetSrc | pktSetKey | pktSetReply | pktSetTid | pktSetAddr => exact ⟨_, rfl, .packet _⟩
  | pktSetCmd | pktSetDlen => exact ⟨_, rfl, .ite (.code _) (.packet _)⟩
  | pktSetPath | pktSetRpath => exact ⟨_, rfl, .ite (.code _) (.ite (.code _) (.packet _))⟩
  | pktGet sel idx => exact execPktGet_sameRings sel idx s
  | crc8 | hdrSize => exact ⟨_, rfl, .ite (.code _) (.answer _ _)⟩
  | serialize => exact ⟨_, rfl, .ite (.code _) (.ite (.code _) ⟨⟨rfl, rfl, rfl⟩, rfl, rfl, rfl⟩)⟩
  | parse => exact execParse_sameRings s
  | rxPoll => exact execRxPoll_sameRings s
  | descRead idx ring word => cases ring <;> exact ⟨_, rfl, .ite (.code _) (.answer _ _)⟩
  | ringStat => exact ⟨_, rfl, .answer _ _⟩
  | tlGrab hd => exact execTlGrab_sameRings hd s
  | tlRelease id => exact ⟨_, rfl, (SameRings.release s id.toNat).finish _⟩
  | tlQuery => exact ⟨_, rfl, .ite (.code _) (.ite (.answer _ _) (.answer _ _))⟩
  | tlReset => exact ⟨_, rfl, (SameRings.releaseAll s).finish _⟩
  | linkLoad | drain | pendingCount => exact ⟨_, rfl, ⟨rfl, rfl, rfl⟩, rfl, rfl, rfl⟩

/-- What any command can do to the rings and to the link. -/
theorem exec_linkEnd (i : Instr) (s : State) : ∃ t, exec i s = .next t ∧ LinkEnd i s t := by
  by_cases hq : QueuesPacket i
  · obtain ⟨hlen, ncl, rfl⟩ | rfl | rfl := hq
    · exact execTxEnqueue_linkEnd hlen ncl s
    · exact execSubmitWrite_linkEnd s
    · exact execSubmitRead_linkEnd s
  by_cases hc : ConsumesPacket i
  · obtain rfl | rfl := hc
    · exact execRxFetch_linkEnd s
    · exact execRxDrop_linkEnd s
  by_cases htx : i = .txInit
  · subst htx
    exact ⟨_, rfl, ⟨rfl, rfl, rfl⟩, .txInit rfl rfl⟩
  by_cases hrx : i = .rxInit
  · subst hrx
    exact ⟨_, rfl, ⟨rfl, rfl, rfl⟩, .rxInit rfl rfl⟩
  obtain ⟨t, ht, hsame⟩ := exec_sameRings s hq hc htx hrx
  exact ⟨t, ht, hsame.toSameLink, .kept hsame.tx hsame.rx fun h => absurd h (not_or.mpr ⟨hq, hc⟩)⟩

/-! ### The drain step -/

/-- What a drain step does with its packet before it re-arms writes counters, the slot table and local memory (R143). -/
def DrainWrites (s t : State) : Prop :=
  t =
    { s with
      parseErrs := t.parseErrs, unmatched := t.unmatched, longWarns := t.longWarns, busErrs := t.busErrs
      slots := t.slots, pend := t.pend, lmem := t.lmem }

theorem DrainWrites.trans {s t u : State} (h : DrainWrites s t) (h' : DrainWrites t u) : DrainWrites s u := by
  rw [h', h]
  rfl

theorem DrainWrites.release {s t : State} (h : DrainWrites s t) (j : Nat) : DrainWrites s (t.release j) := by
  obtain ⟨slots, pend, hr⟩ := release_frame t j
  rw [hr, h]
  rfl

theorem drainMatched_writes (r : Parsed) (s : State) : DrainWrites s (drainMatched r s) := by
  refine DrainWrites.release ?_ _
  split
  · split <;> rfl
  · rfl

theorem drainParsed_writes (r : Parsed) (s : State) : DrainWrites s (drainParsed r s) := by
  have hlong : DrainWrites s (if r.long then { s with longWarns := s.longWarns + 1 } else s) := by
    split <;> rfl
  simp only [drainParsed]
  split
  · exact hlong.trans rfl
  · exact hlong.trans (drainMatched_writes r _)

theorem drainPacket_writes (i : Nat) (s : State) : DrainWrites s (drainPacket i s) := by
  unfold drainPacket
  split
  · rfl
  · split
    · rfl
    · exact drainParsed_writes _ _

end Sys2Proof.Machine
end

section
/-! PROOFS. Order (spec/42_transport.md R127, R128): what each turn does to the packets sent and queued, and to those
received and on the link. -/

namespace Sys2Proof.Machine

/-! ### CORE's turn -/

/-- CORE's step executes the accepted command `i` (R28). -/
def Executes (s : State) (i : Instr) : Prop := s.status.busy = true ∧ s.drainMode = .none ∧ decode s.lcmd = .ok i

/-- CORE's step is a drain step (R28). -/
def Draining (s : State) : Prop := s.status.busy = true ∧ s.drainMode ≠ .none

theorem Executes.unique {s : State} {i j : Instr} (hi : Executes s i) (hj : Executes s j) : j = i :=
  Except.ok.inj (hj.2.2.symm.trans hi.2.2)

theorem not_queues_of_consumes {i : Instr} (hc : ConsumesPacket i) : ¬ QueuesPacket i := by
  obtain rfl | rfl := hc <;> simp [QueuesPacket]

theorem Executes.not_draining {s : State} {i : Instr} (hi : Executes s i) : ¬ Draining s := fun hd => hd.2 hi.2.1

/-- What a turn of CORE can do to the rings and to the link. -/
inductive CoreEnd (s t : State) : Prop
  | command (i : Instr) (hi : Executes s i) (h : LinkEnd i s t)
  /-- Nothing is accepted, or a word that is no command (R65). -/
  | noCommand (hi : ∀ i, ¬ Executes s i) (hd : ¬ Draining s) (h : SameRings s t)
  /-- A drain step with a packet ready (R143). -/
  | drained (hd : Draining s) (k : Nat) (hready : rxHead s.rx = some k) (hlink : SameLink s t) (htx : t.tx = s.tx)
      (hrx : t.rx = rxRearm s.rx s.ctrl.rxie)
  /-- A drain step with nothing ready (R142, R144). -/
  | drainEnded (hd : Draining s) (hempty : rxHead s.rx = none) (h : SameRings s t)

theorem drainStep_ended {s : State} (hempty : rxHead s.rx = none) :
    ∃ v, drainStep s = finishWith .ok v s := by
  simp only [drainStep, hempty]
  split
  · exact ⟨_, rfl⟩
  · exact ⟨_, rfl⟩

/-- A drain step with a packet ready (R143): what its packet changes, the re-armed ring and the two counts. -/
theorem drainStep_consumed {s : State} {k : Nat} (hready : rxHead s.rx = some k) :
    drainStep s =
      { s with
        parseErrs := (drainStep s).parseErrs, unmatched := (drainStep s).unmatched
        longWarns := (drainStep s).longWarns, busErrs := (drainStep s).busErrs, slots := (drainStep s).slots
        pend := (drainStep s).pend, lmem := (drainStep s).lmem, rxBytes := (drainStep s).rxBytes
        rx := rxRearm s.rx s.ctrl.rxie, drainN := s.drainN + 1 } := by
  have hpacket := drainPacket_writes k { s with rxBytes := s.rxBytes + wordOfNat (s.rx.at k).size.toNat }
  rw [drainStep, hready]
  simp only
  rw [hpacket]
  rfl

theorem coreTurn_coreEnd {s t : State} (h : coreTurn s = .next t) : CoreEnd s t := by
  cases hb : s.status.busy with
  | false =>
    obtain rfl : s = t := by simpa [coreTurn_idle hb] using h
    exact .noCommand (fun i hi => by simp [hi.1] at hb) (fun hd => by simp [hd.1] at hb) (.refl s)
  | true =>
    by_cases hd : s.drainMode = .none
    · cases hw : decode s.lcmd with
      | error e =>
        obtain rfl : finish .eBadop s = t := by simpa [coreTurn_reject hb hd hw] using h
        exact .noCommand (fun i hi => by simp [hi.2.2] at hw) (fun hdr => hdr.2 hd) (.code _)
      | ok i =>
        obtain ⟨u, hu, hend⟩ := exec_linkEnd i s
        obtain rfl : u = t := by simpa [coreTurn_command hb hd hw, hu] using h
        exact .command i ⟨hb, hd, hw⟩ hend
    · obtain rfl : drainStep s = t := by simpa [coreTurn_drain hb hd] using h
      cases hready : rxHead s.rx with
      | none =>
        obtain ⟨v, hv⟩ := drainStep_ended hready
        exact .drainEnded ⟨hb, hd⟩ hready (hv ▸ .answer _ _)
      | some k =>
        have hstep := drainStep_consumed hready
        refine .drained ⟨hb, hd⟩ k hready ⟨?_, ?_, ?_⟩ ?_ ?_ <;> rw [hstep]

/-! ### The other turns -/

/-- HOST leaves the rings and the link (R111). -/
theorem hostStep_rings {act : HostAct} {s t : State} (h : hostStep act s = .next t) :
    SameLink s t ∧ t.tx = s.tx ∧ t.rx = s.rx := by
  obtain ⟨regs, mem, rfl⟩ | ⟨v, r, rfl⟩ | ⟨a, x, -, rfl⟩ := hostStep_cases h
  · exact ⟨⟨rfl, rfl, rfl⟩, rfl, rfl⟩
  · rw [regWrite_frame]
    exact ⟨⟨rfl, rfl, rfl⟩, rfl, rfl⟩
  · exact ⟨⟨rfl, rfl, rfl⟩, rfl, rfl⟩

theorem linkTxStep_txOut {s : State} (h : (s.tx.at s.tx.lptr.toNat).en = true) :
    (linkTxStep s).txOut = s.txOut ++ [txPacket s.tx s.tx.lptr.toNat] := by
  simp [linkTxStep, h]

/-- LINK_TX moves the first packet queued to the end of TXOUT, or waits. -/
theorem linkTxStep_transmits {s : State} (hs : TxRingOk s) :
    s.txOut <+: (linkTxStep s).txOut ∧ (linkTxStep s).txOut ++ (linkTxStep s).queuedTx = s.txOut ++ s.queuedTx := by
  cases hen : (s.tx.at s.tx.lptr.toNat).en with
  | false => rw [linkTxStep_waiting hen]; exact ⟨List.prefix_rfl, rfl⟩
  | true =>
    rw [linkTxStep_txOut hen, queuedTx_eq, queuedTx_eq, linkTxStep_tx hen, queued_serve hs hen]
    exact ⟨List.prefix_append .., by simp⟩

/-! ### Transmit order -/

/-- A turn other than CORE's and reset leaves what is sent and queued as one sequence. -/
theorem takeTurn_transmits {turn : Turn} {s t : State} (hs : TxRingOk s) (h : takeTurn turn s = .next t)
    (hcore : turn ≠ .core) (hreset : turn ≠ .reset) :
    s.txOut <+: t.txOut ∧ t.txOut ++ t.queuedTx = s.txOut ++ s.queuedTx := by
  have hsame : t.txOut = s.txOut → t.tx = s.tx →
      s.txOut <+: t.txOut ∧ t.txOut ++ t.queuedTx = s.txOut ++ s.queuedTx := fun ho htx => by
    rw [ho, queuedTx_eq, queuedTx_eq, htx]
    exact ⟨List.prefix_rfl, rfl⟩
  cases turn with
  | core => exact absurd rfl hcore
  | reset => exact absurd rfl hreset
  | host act =>
    obtain ⟨hlink, htx, -⟩ := hostStep_rings h
    exact hsame hlink.txOut htx
  | linkTx =>
    obtain rfl : linkTxStep s = t := by simpa using h
    exact linkTxStep_transmits hs
  | linkRx =>
    obtain rfl | ⟨p, wire, -, -, -, rfl⟩ := linkRxStep_cases h
    · exact hsame rfl rfl
    · exact hsame rfl rfl
  | arrive p =>
    obtain rfl : { s with rxWire := s.rxWire ++ [p] } = t := by simpa using h
    exact hsame rfl rfl

/-- The step queues a packet: a TX_ENQUEUE or a SUBMIT that finishes OK. -/
def Enqueues (s t : State) : Prop := ∃ i, Executes s i ∧ QueuesPacket i ∧ t.status.code = .ok

theorem enqueues_iff {s t : State} {i : Instr} (hi : Executes s i) :
    Enqueues s t ↔ QueuesPacket i ∧ t.status.code = .ok :=
  ⟨fun ⟨_, hj, h⟩ => hi.unique hj ▸ h, fun h => ⟨i, hi, h⟩⟩

/-- CORE sends nothing, and adds to the packets queued the one of a command that finishes OK. -/
theorem coreTurn_transmits {s t : State} (hs : TxRingOk s) (h : coreTurn s = .next t) (hinit : ¬ Executes s .txInit) :
    t.txOut = s.txOut ∧
      (Enqueues s t ∧ (∃ p, t.queuedTx = s.queuedTx ++ [p]) ∨ ¬ Enqueues s t ∧ t.queuedTx = s.queuedTx) := by
  simp only [queuedTx_eq]
  have hnone : (∀ i, ¬ Executes s i) → ¬ Enqueues s t := fun hno ⟨i, hi, _⟩ => hno i hi
  cases coreTurn_coreEnd h with
  | noCommand hi _ h => exact ⟨h.txOut, .inr ⟨hnone hi, by rw [h.tx]⟩⟩
  | drained hd _ _ hlink htx => exact ⟨hlink.txOut, .inr ⟨hnone fun _ hi => hi.not_draining hd, by rw [htx]⟩⟩
  | drainEnded hd _ h => exact ⟨h.txOut, .inr ⟨hnone fun _ hi => hi.not_draining hd, by rw [h.tx]⟩⟩
  | command i hi h =>
    rw [enqueues_iff hi]
    refine ⟨h.link.txOut, ?_⟩
    cases h.rings with
    | kept htx _ hcode => exact .inr ⟨fun hq => hcode (.inl hq.1) hq.2, by rw [htx]⟩
    | txInit hinit' => exact absurd (hinit' ▸ hi) hinit
    | rxInit hi' htx => exact .inr ⟨by simp [hi', QueuesPacket], by rw [htx]⟩
    | reclaimed _ htx _ hcode => exact .inr ⟨fun hq => hcode hq.2, by rw [htx, queued_txReclaim]⟩
    | filled hq hd ncl x hfree htx _ hcode =>
      refine .inl ⟨⟨hq, hcode⟩, ?_⟩
      rw [htx, ← queued_txReclaim s.tx]
      exact queued_txFill hs.txReclaim hfree hd ncl x s.ctrl.txie
    | consumed hc _ _ htx => exact .inr ⟨fun hq => not_queues_of_consumes hc hq.1, by rw [htx]⟩

/-! ### Receive order -/

/-- The packets received and not consumed, followed by those that wait on the link, cut to RX_BUF bytes. -/
def State.toConsume (s : State) : List (List Byte) := s.readyRx ++ s.rxWire.map (·.take s.cfg.rxBuf)

theorem toConsume_congr {s t : State} (hlink : SameLink s t) (hrx : t.rx = s.rx) : t.toConsume = s.toConsume := by
  rw [State.toConsume, State.toConsume, readyRx_eq, readyRx_eq, hrx, hlink.rxWire, hlink.cfg]

/-- LINK_RX moves the first packet on the link behind those received, or waits. -/
theorem linkRxStep_toConsume {s t : State} (hs : RxRingOk s) (hwf : s.cfg.wf = true) (h : linkRxStep s = .next t) :
    t.toConsume = s.toConsume := by
  obtain ⟨-, -, -, -, -, -, hbuf⟩ := bounds_of_wf hwf
  obtain rfl | ⟨p, wire, hwire, hen, -, rfl⟩ := linkRxStep_cases h
  · rfl
  · have hready := ready_receive hs (by omega) hen p
    simp only [State.toConsume, readyRx_eq, hwire, hready]
    simp

/-- A turn other than CORE's and reset adds to the packets to consume the one that arrives, if one does. -/
theorem takeTurn_toConsume {turn : Turn} {s t : State} (hs : RxRingOk s) (hwf : s.cfg.wf = true)
    (h : takeTurn turn s = .next t) (hcore : turn ≠ .core) (hreset : turn ≠ .reset) :
    (∃ p, turn = .arrive p ∧ t.toConsume = s.toConsume ++ [p.take s.cfg.rxBuf]) ∨
      (∀ p, turn ≠ .arrive p) ∧ t.toConsume = s.toConsume := by
  cases turn with
  | core => exact absurd rfl hcore
  | reset => exact absurd rfl hreset
  | host act =>
    obtain ⟨hlink, -, hrx⟩ := hostStep_rings h
    exact .inr ⟨by simp, toConsume_congr hlink hrx⟩
  | linkTx =>
    obtain rfl : linkTxStep s = t := by simpa using h
    exact .inr ⟨by simp, by rw [linkTxStep_frame]; rfl⟩
  | linkRx => exact .inr ⟨by simp, linkRxStep_toConsume hs hwf h⟩
  | arrive p =>
    obtain rfl : { s with rxWire := s.rxWire ++ [p] } = t := by simpa using h
    exact .inl ⟨p, rfl, by simp [State.toConsume, State.readyRx]⟩

/-- The step consumes a packet: an RX_FETCH or RX_DROP that finishes OK, or a drain step with a packet ready. -/
def ConsumesOne (s t : State) : Prop :=
  (Executes s .rxFetch ∨ Executes s .rxDrop) ∧ t.status.code = .ok ∨ Draining s ∧ (rxHead s.rx).isSome = true

theorem consumesOne_iff {s t : State} {i : Instr} (hi : Executes s i) :
    ConsumesOne s t ↔ ConsumesPacket i ∧ t.status.code = .ok := by
  constructor
  · rintro (⟨hf | hd, hcode⟩ | ⟨hdr, -⟩)
    · exact ⟨.inl (hf.unique hi), hcode⟩
    · exact ⟨.inr (hd.unique hi), hcode⟩
    · exact absurd hdr hi.not_draining
  · rintro ⟨rfl | rfl, hcode⟩
    · exact .inl ⟨.inl hi, hcode⟩
    · exact .inl ⟨.inr hi, hcode⟩

/-- Where a step consumes the packet at the head of the ring. -/
theorem toConsume_rearm {s t : State} (hs : RxRingOk s) {k : Nat} (hready : rxHead s.rx = some k) (hlink : SameLink s t)
    (hrx : t.rx = rxRearm s.rx s.ctrl.rxie) :
    s.toConsume = s.rx.bytes k (s.rx.at k).size.toNat :: t.toConsume := by
  rw [State.toConsume, State.toConsume, readyRx_eq, readyRx_eq, hrx, hlink.rxWire, hlink.cfg,
    ready_rxRearm hs hready s.ctrl.rxie, List.cons_append]

/-- CORE consumes the first packet received, or leaves all of them. -/
theorem coreTurn_toConsume {s t : State} (hs : RxRingOk s) (h : coreTurn s = .next t) (hinit : ¬ Executes s .rxInit) :
    (ConsumesOne s t ∧
        ∃ k, rxHead s.rx = some k ∧ s.toConsume = s.rx.bytes k (s.rx.at k).size.toNat :: t.toConsume) ∨
      ¬ ConsumesOne s t ∧ t.toConsume = s.toConsume := by
  cases coreTurn_coreEnd h with
  | noCommand hi hd h =>
    refine .inr ⟨?_, toConsume_congr h.toSameLink h.rx⟩
    rintro (⟨hf | hdrop, -⟩ | ⟨hdr, -⟩)
    · exact hi _ hf
    · exact hi _ hdrop
    · exact hd hdr
  | drained hd k hready hlink _ hrx =>
    exact .inl ⟨.inr ⟨hd, by simp [hready]⟩, k, hready, toConsume_rearm hs hready hlink hrx⟩
  | drainEnded hd hempty h =>
    refine .inr ⟨?_, toConsume_congr h.toSameLink h.rx⟩
    rintro (⟨hf | hdrop, -⟩ | ⟨-, hsome⟩)
    · exact hf.not_draining hd
    · exact hdrop.not_draining hd
    · simp [hempty] at hsome
  | command i hi h =>
    rw [consumesOne_iff hi]
    cases h.rings with
    | kept _ hrx hcode => exact .inr ⟨fun hc => hcode (.inr hc.1) hc.2, toConsume_congr h.link hrx⟩
    | txInit hi' hrx => exact .inr ⟨by simp [hi', ConsumesPacket], toConsume_congr h.link hrx⟩
    | rxInit hinit' => exact absurd (hinit' ▸ hi) hinit
    | reclaimed hq _ hrx => exact .inr ⟨fun hc => not_queues_of_consumes hc.1 hq, toConsume_congr h.link hrx⟩
    | filled hq _ _ _ _ _ hrx => exact .inr ⟨fun hc => not_queues_of_consumes hc.1 hq, toConsume_congr h.link hrx⟩
    | consumed hc k hready _ hrx hcode => exact .inl ⟨⟨hc, hcode⟩, k, hready, toConsume_rearm hs hready h.link hrx⟩

/-! ### The obligations -/

/-- One step is one turn from a state that differs in the turns to come alone. -/
theorem step_eq_takeTurn (s : State) : ∃ q, step s = takeTurn (nextTurn s).1 { s with sched := q } :=
  ⟨_, congrArg (takeTurn (nextTurn s).1) (nextTurn_frame s)⟩

/-- Settles O51: LINK_TX moves the first packet queued to the end of what is sent; CORE only adds behind. -/
theorem transmitOrder : Obligations.TransmitOrder := by
  intro s t hs hstep hreset hinit
  obtain ⟨q, hturn⟩ := step_eq_takeTurn s
  rw [hturn] at hstep
  have htx : TxRingOk { s with sched := q } := hs.tx.congr rfl rfl
  by_cases hcore : (nextTurn s).1 = .core
  · rw [hcore] at hstep
    obtain ⟨hout, hqueued⟩ := coreTurn_transmits htx hstep fun h => hinit ⟨hcore, h⟩
    refine ⟨hout ▸ List.prefix_rfl, fun ⟨i, hi, hq⟩ => ?queued, fun hno => ?other⟩
    case queued =>
      obtain ⟨-, p, hp⟩ := hqueued.resolve_right fun h => h.1 ⟨i, hi.2, hq⟩
      exact ⟨p, by rw [hout, hp, List.append_assoc]; rfl⟩
    case other =>
      obtain ⟨-, hsame⟩ := hqueued.resolve_left fun ⟨⟨i, hi, hq⟩, _⟩ => hno ⟨i, ⟨hcore, hi⟩, hq⟩
      rw [hout, hsame]
      rfl
  · obtain ⟨hprefix, hsame⟩ := takeTurn_transmits htx hstep hcore hreset
    exact ⟨hprefix, fun ⟨_, hi, _⟩ => absurd hi.1 hcore, fun _ => hsame⟩

theorem arrivesNext_eq_nil {s : State} (h : ∀ p, (nextTurn s).1 ≠ .arrive p) : s.arrivesNext = [] := by
  unfold State.arrivesNext
  split
  · exact absurd ‹_› (h _)
  all_goals rfl

/-- Settles O52: LINK_RX moves the first packet on the link behind those received; CORE only takes the first away. -/
theorem receiveOrder : Obligations.ReceiveOrder := by
  intro s t hs hstep hreset hinit before after
  have hafter : after = t.toConsume := by rw [State.toConsume, step_cfg hstep]
  obtain ⟨q, hturn⟩ := step_eq_takeTurn s
  rw [hturn] at hstep
  have hrx : RxRingOk { s with sched := q } := hs.rx.congr rfl rfl
  rw [hafter]
  by_cases hcore : (nextTurn s).1 = .core
  · rw [hcore] at hstep
    have hone : (s.runsNext .rxFetch ∨ s.runsNext .rxDrop) ∧ t.status.code = .ok ∨
        s.drainsNext ∧ (rxHead s.rx).isSome = true ↔ ConsumesOne { s with sched := q } t := by
      simp only [State.runsNext, State.drainsNext, hcore, true_and]
      rfl
    rw [hone, arrivesNext_eq_nil (by simp [hcore]), List.map_nil, List.append_nil]
    obtain ⟨hc, k, hready, hfirst⟩ | ⟨hc, hsame⟩ := coreTurn_toConsume hrx hstep fun h => hinit ⟨hcore, h⟩
    · exact ⟨fun _ => ⟨_, hfirst, k, hready, rfl⟩, fun h => absurd hc h⟩
    · exact ⟨fun h => absurd h hc, fun _ => hsame⟩
  · have hno : ¬ ((s.runsNext .rxFetch ∨ s.runsNext .rxDrop) ∧ t.status.code = .ok ∨
        s.drainsNext ∧ (rxHead s.rx).isSome = true) := by
      simp [State.runsNext, State.drainsNext, hcore]
    refine ⟨fun h => absurd h hno, fun _ => ?_⟩
    obtain ⟨p, harrive, hadd⟩ | ⟨hnone, hsame⟩ := takeTurn_toConsume hrx hs.config hstep hcore hreset
    · rw [hadd, State.arrivesNext, harrive]
      rfl
    · rw [hsame, arrivesNext_eq_nil hnone, List.map_nil, List.append_nil]
      rfl

end Sys2Proof.Machine
end

section
/-! PROOFS. The link agents (spec/42_transport.md R106 to R111): what one step of LINK_TX and of LINK_RX does, and what
it leaves. -/

namespace Sys2Proof.Machine

/-! ### LINK_TX -/

/-- A step serves at most one descriptor and writes its EN alone (R107, R111), wherever the pointer stands. -/
theorem TxRing.serve_at (r : TxRing) (j : Nat) : r.serve.at j = { r.at j with en := (r.serve.at j).en } := by
  by_cases hp : r.lptr.toNat < r.desc.length
  · rw [TxRing.at_set r r.serve rfl hp]
    by_cases hj : j = r.lptr.toNat <;> simp [hj]
  · have hsame : r.serve.desc = r.desc := List.set_eq_of_length_le (Nat.not_lt.mp hp)
    rw [TxRing.at, hsame]
    rfl

/-- The pointer after a step is the next index modulo the ring's size (R106). -/
theorem TxRing.serve_lptr {s : State} (hs : TxRingOk s) (hn : s.cfg.nTx ≤ 65535)
    (hen : (s.tx.at s.tx.lptr.toNat).en = true) : s.tx.serve.lptr.toNat = (s.tx.lptr.toNat + 1) % s.cfg.nTx := by
  obtain ⟨-, -, -, hp, -⟩ := hs.order.cut_at_pointer hen
  exact nextPtr_toNat hp hn (hs.wrap _ hp)

/-! ### LINK_RX -/

theorem linkRxStep_waiting {s : State} (h : (s.rx.at s.rx.lptr.toNat).en = false ∨ s.rxWire = []) :
    linkRxStep s = .next s := by
  cases hwire : s.rxWire with
  | nil => simp [linkRxStep, hwire]
  | cons p wire =>
    have hoff := h.resolve_right (by simp [hwire])
    simp [linkRxStep, hwire, hoff]

/-- A packet waits and the descriptor is enabled: LINK_RX takes it, unless it is longer than R109 admits. -/
theorem linkRxStep_enabled {s : State} {p : List Byte} {wire : List (List Byte)} (hwire : s.rxWire = p :: wire)
    (hen : (s.rx.at s.rx.lptr.toNat).en = true) :
    linkRxStep s =
      if p.length > 16777215 then .refused .packetTooLong
      else .next
        { s with
          rxWire := wire
          irq := { s.irq with rxi := s.irq.rxi || (s.rx.at s.rx.lptr.toNat).ie }
          rx := s.rx.receive s.cfg.rxBuf p } := by
  simp only [linkRxStep, hwire, hen, Bool.not_true, Bool.false_eq_true, if_false]
  rfl

/-- A step writes EN, SIZE and TR of at most one descriptor (R109, R111), wherever the pointer stands. -/
theorem RxRing.receive_at (r : RxRing) (size : Nat) (p : List Byte) (j : Nat) :
    (r.receive size p).at j =
      { r.at j with
        en := ((r.receive size p).at j).en, size := ((r.receive size p).at j).size
        tr := ((r.receive size p).at j).tr } := by
  by_cases hp : r.lptr.toNat < r.desc.length
  · rw [RxRing.at_set r (r.receive size p) rfl hp]
    by_cases hj : j = r.lptr.toNat <;> simp [hj]
  · have hsame : (r.receive size p).desc = r.desc := List.set_eq_of_length_le (Nat.not_lt.mp hp)
    rw [RxRing.at, hsame]
    rfl

theorem RxRing.receive_lptr {s : State} (hs : RxRingOk s) (hn : s.cfg.nRx ≤ 65535)
    (hen : (s.rx.at s.rx.lptr.toNat).en = true) (p : List Byte) :
    (s.rx.receive s.cfg.rxBuf p).lptr.toNat = (s.rx.lptr.toNat + 1) % s.cfg.nRx := by
  obtain ⟨-, -, -, hp, -⟩ := hs.order.cut_at_pointer hen
  exact nextPtr_toNat hp hn (hs.wrap _ hp)

/-- Past what has been written to it, a buffer is as before. -/
theorem getD_bufWrite_of_ge {x : List Byte} {k : Nat} (h : x.length ≤ k) (w : List Byte) (d : Byte) :
    (bufWrite x w).getD k d = w.getD k d := by
  simp only [bufWrite, List.getD_append_right _ _ _ _ h, List.getD_eq_getElem?_getD, List.getElem?_drop,
    Nat.add_sub_cancel' h]

/-! ### The obligations -/

/-- Settles O30: the step at an enabled descriptor, as it is defined. -/
theorem linkTransmitStep : Obligations.LinkTransmitStep :=
  fun _ hen => congrArg Host.Outcome.next (if_neg (by simp [hen]))

/-- Settles O31: the stored bytes read back, and those behind them and the other buffers are as before. -/
theorem linkReceiveStep : Obligations.LinkReceiveStep := by
  intro s p wire hs hbuf hwire hlen hen i d m
  obtain ⟨-, -, -, hp, -⟩ := hs.order.cut_at_pointer hen
  have hstored : (p.take m).length = m := by simp [m]
  refine ⟨_, BitVec.ofNat 24 m, (linkRxStep_enabled hwire hen).trans (if_neg (by omega)),
    toNat_ofNat_of_le (by omega), rfl, bytes_receive hs hp p, fun k hk => ?later, fun j hj => getD_set_ne _ _ _ hj⟩
  case later =>
    rw [RxRing.receive, getD_set_of_lt (hs.bufs ▸ hp), if_pos rfl]
    exact getD_bufWrite_of_ge (hstored.trans_le hk) _ _

/-- Settles O32: a step at an enabled descriptor moves the pointer on, and any other turn passes. -/
theorem scanOrder : Obligations.ScanOrder := by
  intro s t hs
  obtain ⟨⟨-, htx⟩, ⟨-, hrx⟩, -⟩ := bounds_of_wf hs.config
  refine ⟨fun h => ?tx, fun h => ⟨fun hen hne => ?taken, fun hwait => ?waits⟩⟩
  case tx =>
    obtain rfl : linkTxStep s = t := by simpa using h
    exact ⟨fun hen => by rw [linkTxStep_tx hen, TxRing.serve_lptr hs.tx htx hen], linkTxStep_waiting⟩
  case taken =>
    obtain ⟨p, wire, hwire⟩ := List.exists_cons_of_ne_nil hne
    rw [takeTurn_linkRx, linkRxStep_enabled hwire hen] at h
    split at h
    case isTrue => cases h
    case isFalse =>
      cases h
      exact RxRing.receive_lptr hs.rx hrx hen p
  case waits =>
    rw [takeTurn_linkRx, linkRxStep_waiting hwait] at h
    cases h
    rfl

/-- Settles O17: HOST and an arrival leave the rings; a link's step writes its descriptor, buffer and pointer. -/
theorem whoChangesWhat : Obligations.WhoChangesWhat := by
  refine ⟨fun _ _ _ h => (hostStep_rings h).2, fun p s t h => ?arrive, fun s t h => ?linkTx, fun s t h => ?linkRx⟩
  case arrive =>
    obtain rfl : arrival p s = t := by simpa [arrival] using h
    exact ⟨rfl, rfl⟩
  case linkTx =>
    obtain rfl : linkTxStep s = t := by simpa using h
    cases hen : (s.tx.at s.tx.lptr.toNat).en with
    | false =>
      rw [linkTxStep_waiting hen]
      exact ⟨rfl, rfl, fun _ => rfl, [], by simp⟩
    | true =>
      rw [linkTxStep_tx hen]
      refine ⟨?_, by simp [TxRing.serve], TxRing.serve_at s.tx, _, linkTxStep_txOut hen⟩
      conv_lhs => rw [linkTxStep_frame, linkTxStep_tx hen]
      rfl
  case linkRx =>
    obtain rfl | ⟨p, wire, hwire, -, -, rfl⟩ := linkRxStep_cases h
    · exact ⟨rfl, rfl, fun _ => rfl, [], rfl⟩
    · exact ⟨rfl, by simp [RxRing.receive], RxRing.receive_at s.rx s.cfg.rxBuf p, [p], hwire⟩

end Sys2Proof.Machine
end

section
/-! PROOFS. The rings' procedures (spec/42_transport.md R112 to R116) and the transport's commands (R118 to R125), answer
by answer. -/

namespace Sys2Proof.Machine

/-! ### Command words -/

theorem encode_txEnqueue (hlen ncl : Byte) :
    encode (.txEnqueue hlen ncl) = 0x32000000#32 ||| (ncl.setWidth 32 <<< 8) ||| hlen.setWidth 32 := by
  rw [encode, commandWord_eq_or, BitVec.setWidth_or, setWidth_place ncl 8 (by decide),
    setWidth_place hlen 0 (by decide), BitVec.shiftLeft_zero, ← BitVec.or_assoc]
  rfl

theorem or_swap (a b c : Word) : a ||| (b ||| c) = a ||| c ||| b := by ac_rfl

theorem or_shuffle (a b c d : Word) : a ||| (b ||| c ||| d) = (a ||| c) ||| b ||| d := by ac_rfl

theorem encode_descRead (idx : BitVec 16) (ring : Ring) (word : Bool) :
    encode (.descRead idx ring word) =
      (0x36000000#32 ||| (BitVec.ofBool ring.bit).setWidth 32 <<< 16) |||
        ((BitVec.ofBool word).setWidth 32 <<< 17) ||| idx.setWidth 32 := by
  rw [encode, commandWord_eq_or, BitVec.setWidth_or, BitVec.setWidth_or, placeBit, placeBit,
    setWidth_place _ 17 (by decide), setWidth_place _ 16 (by decide), setWidth_place idx 0 (by decide),
    BitVec.shiftLeft_zero]
  exact or_shuffle _ _ _ _

theorem encode_ringStat (ring : Ring) (sel : Bool) :
    encode (.ringStat ring sel) =
      (0x37000000#32 ||| (BitVec.ofBool ring.bit).setWidth 32 <<< 0) ||| ((BitVec.ofBool sel).setWidth 32 <<< 1) := by
  rw [encode, commandWord_eq_or, BitVec.setWidth_or, placeBit, placeBit, setWidth_place _ 1 (by decide),
    setWidth_place _ 0 (by decide)]
  exact or_swap _ _ _

/-! ### The procedures -/

/-- `rx_ready()` as a condition on the head of the busy queue (R115). -/
theorem rxHead_eq_some_iff_head? (r : RxRing) (i : Nat) :
    rxHead r = some i ↔ r.busy.head? = some i ∧ (r.at i).en = false := by
  rw [rxHead_eq_some_iff, List.head?_eq_some_iff]

/-- Reclamation of a busy queue cut before its first enabled descriptor (R112). -/
theorem txReclaim_of_append {r : TxRing} {drained rest : List Nat} (hbusy : r.busy = drained ++ rest)
    (hoff : ∀ i ∈ drained, (r.at i).en = false) (hhead : ∀ i, rest.head? = some i → (r.at i).en = true) :
    txReclaim r = { r with free := r.free ++ drained, busy := rest } := by
  have hpass : ∀ i ∈ drained, (!(r.at i).en) = true := by simpa using hoff
  have hstop : rest.takeWhile (fun i => !(r.at i).en) = [] ∧ rest.dropWhile (fun i => !(r.at i).en) = rest := by
    cases rest with
    | nil => simp
    | cons i rest => simp [hhead i rfl]
  rw [txReclaim, hbusy, List.takeWhile_append_of_pos hpass, List.dropWhile_append_of_pos hpass, hstop.1, hstop.2,
    List.append_nil]

/-- RX_INIT's ring, in one piece (R119). -/
theorem rxInit_eq (n : Nat) (ie : Bool) (r : RxRing) :
    rxInit n ie r =
      { r with
        desc := (List.range n).map fun i => { en := true, wr := i + 1 == n, ie := ie, tr := false, size := 0 }
        free := []
        busy := List.range n
        lptr := 0 } := by
  obtain ⟨hfree, hbusy, hptr, hbuf⟩ := rxArmAll_queues ie _ (rxClear n r) rfl
  rw [← rxInit] at hfree hbusy hptr hbuf
  have hlen : (rxInit n ie r).desc.length = n := by simp [rxInit, rxArmAll_desc_length, rxClear]
  have hdesc : (rxInit n ie r).desc =
      (List.range n).map fun i => { en := true, wr := i + 1 == n, ie := ie, tr := false, size := 0 } := by
    refine List.ext_getElem (by simp [hlen]) fun i hi hi' => ?_
    have hat := rxInit_at n ie r i
    rw [RxRing.at, List.getD_eq_getElem _ _ hi, if_pos (by simpa using hi')] at hat
    simp [hat, RxDesc.reset]
  calc rxInit n ie r
      = ⟨(rxInit n ie r).desc, (rxInit n ie r).buf, (rxInit n ie r).free, (rxInit n ie r).busy, (rxInit n ie r).lptr⟩ :=
        rfl
    _ = _ := by rw [hdesc, hbuf, hfree, hbusy, hptr]; rfl

/-- The word RX_POLL, RX_FETCH and RX_DROP report, as a number (R121). -/
theorem toNat_rxResult (d : RxDesc) : (rxResult d).toNat = 2 ^ 31 * d.tr.toNat + d.size.toNat := by
  have hsize := d.size.isLt
  have hsum := toNat_or_flagAt (toNat_fieldAt d.size 0) d.tr 31
  rw [rxResult, BitVec.or_comm, hsum]
  omega

/-- RING_STAT's word of the queues' lengths (R125). -/
theorem toNat_ringStatWord_lengths {free busy : List Nat} (lptr : BitVec 16) (hb : busy.length < 2 ^ 16)
    (hf : free.length < 2 ^ 16) : (ringStatWord free busy lptr false).toNat = 2 ^ 16 * busy.length + free.length := by
  have hsum := toNat_or_fieldAt (toNat_fieldAt (BitVec.ofNat 16 free.length) 0) (BitVec.ofNat 16 busy.length) 16
  simp only [ringStatWord, Bool.false_eq_true, if_false]
  rw [BitVec.or_comm, hsum, toNat_ofNat_of_le (by omega), toNat_ofNat_of_le (by omega)]
  omega

/-- The pointer above a half word (R125). -/
theorem toNat_pointer_or (lptr low : BitVec 16) :
    (fieldAt lptr 16 ||| fieldAt low 0).toNat = 2 ^ 16 * lptr.toNat + low.toNat := by
  have hlow := low.isLt
  have hsum := toNat_or_fieldAt (toNat_fieldAt low 0) lptr 16
  rw [BitVec.or_comm, hsum]
  omega

/-- RING_STAT's word of the pointer where nothing is busy (R125). -/
theorem toNat_ringStatWord_idle (free : List Nat) {busy : List Nat} (lptr : BitVec 16) (hidle : busy = []) :
    (ringStatWord free busy lptr true).toNat = 2 ^ 16 * lptr.toNat + 0xFFFF := by
  subst hidle
  exact toNat_pointer_or lptr 0xFFFF#16

/-- RING_STAT's word of the pointer and the busy queue's head (R125). -/
theorem toNat_ringStatWord_head (free : List Nat) {busy : List Nat} {i : Nat} (lptr : BitVec 16)
    (hhead : busy.head? = some i) (hi : i < 2 ^ 16) :
    (ringStatWord free busy lptr true).toNat = 2 ^ 16 * lptr.toNat + i := by
  obtain ⟨rest, rfl⟩ := List.head?_eq_some_iff.mp hhead
  exact (toNat_pointer_or lptr (BitVec.ofNat 16 i)).trans (by rw [toNat_ofNat_of_le (by omega)])

/-! ### The commands, answer by answer -/

section
variable {hlen ncl : Byte} {s : State}

theorem exec_txEnqueue_of_bad_lengths (h : hlen = 0 ∨ hlen.toNat < ncl.toNat) :
    exec (.txEnqueue hlen ncl) s = .next (finish .eInval s) :=
  congrArg Host.Outcome.next (if_pos (by simpa [BitVec.lt_def] using h))

variable (h0 : hlen ≠ 0) (hncl : ncl.toNat ≤ hlen.toNat)
include h0 hncl

/-- Past the check of the lengths. -/
theorem exec_txEnqueue_of_lengths :
    exec (.txEnqueue hlen ncl) s = .next
      (if hlen.toNat > s.cfg.txHdrBuf || s.a2 > s.cfg.txDataBuf then finish .eToobig s
      else if !s.rangeOK s.a0 hlen.toNat || !s.rangeOK s.a1 s.a2 then finish .eBus s
      else if s.txReclaim.tx.free.isEmpty then finish .eNodesc s.txReclaim
      else finish .ok (s.txReclaim.txFill (s.memRead s.a0 hlen.toNat) ncl (s.memRead s.a1 s.a2))) :=
  congrArg Host.Outcome.next (if_neg (by simpa [BitVec.lt_def] using ⟨h0, hncl⟩))

theorem exec_txEnqueue_of_too_big (h : s.cfg.txHdrBuf < hlen.toNat ∨ s.cfg.txDataBuf < s.larg2.toNat) :
    exec (.txEnqueue hlen ncl) s = .next (finish .eToobig s) := by
  rw [exec_txEnqueue_of_lengths h0 hncl, if_pos (by simpa [State.a2] using h)]

variable (hhdr : hlen.toNat ≤ s.cfg.txHdrBuf) (hdata : s.larg2.toNat ≤ s.cfg.txDataBuf)
include hhdr hdata

theorem exec_txEnqueue_of_not_rangeOK (h : rangeOK s.cfg s.larg0.toNat hlen.toNat = false ∨
    rangeOK s.cfg s.larg1.toNat s.larg2.toNat = false) : exec (.txEnqueue hlen ncl) s = .next (finish .eBus s) := by
  rw [exec_txEnqueue_of_lengths h0 hncl, if_neg (by simpa [State.a2] using ⟨hhdr, hdata⟩),
    if_pos (by simpa [State.rangeOK, State.a0, State.a1, State.a2] using h)]

variable (hr0 : rangeOK s.cfg s.larg0.toNat hlen.toNat = true) (hr1 : rangeOK s.cfg s.larg1.toNat s.larg2.toNat = true)
include hr0 hr1

/-- Past all the checks. -/
theorem exec_txEnqueue_of_rangeOK :
    exec (.txEnqueue hlen ncl) s = .next
      (if (txReclaim s.tx).free.isEmpty then finish .eNodesc s.txReclaim
      else finish .ok
        (s.txReclaim.txFill (Memory.read s.lmem s.larg0.toNat hlen.toNat) ncl
          (Memory.read s.lmem s.larg1.toNat s.larg2.toNat))) := by
  rw [exec_txEnqueue_of_lengths h0 hncl, if_neg (by simpa [State.a2] using ⟨hhdr, hdata⟩),
    if_neg (by simp [State.rangeOK, State.a0, State.a1, State.a2, hr0, hr1])]
  rfl

end

section
variable {s : State}

theorem exec_rxPoll_of_none (h : rxHead s.rx = none) : exec .rxPoll s = .next (finishWith .none 0 s) := by
  simp only [exec, execRxPoll, h]

theorem exec_rxDrop_of_none (h : rxHead s.rx = none) : exec .rxDrop s = .next (finishWith .none 0 s) := by
  simp only [exec, execRxDrop, h]

theorem exec_rxFetch_of_none (h : rxHead s.rx = none) : exec .rxFetch s = .next (finishWith .none 0 s) := by
  simp only [exec, execRxFetch, h]

variable {i : Nat} (h : rxHead s.rx = some i)
include h

theorem exec_rxPoll_of_some : exec .rxPoll s = .next (finishWith .ok (rxResult (s.rx.at i)) s) := by
  simp only [exec, execRxPoll, h]

theorem exec_rxDrop_of_some : exec .rxDrop s = .next (finishWith .ok (rxResult (s.rx.at i)) s.rxRearm) := by
  simp only [exec, execRxDrop, h]

/-- With a packet ready the range of the destination decides. -/
theorem exec_rxFetch_of_some :
    exec .rxFetch s = .next
      (if !rangeOK s.cfg s.larg0.toNat (s.rx.at i).size.toNat then finish .eBus s
      else finishWith .ok (rxResult (s.rx.at i))
        { s.memWrite s.larg0.toNat (s.rx.bytes i (s.rx.at i).size.toNat) with
          rxBytes := s.rxBytes + wordOfNat (s.rx.at i).size.toNat }.rxRearm) := by
  simp only [exec, execRxFetch, h]
  rfl

end

/-! ### The obligations -/

/-- Settles O34: each procedure on a queue cut where the procedure cuts it. -/
theorem queueProcedures : Obligations.QueueProcedures :=
  ⟨fun _ _ _ => txReclaim_of_append, rxHead_eq_some_iff_head?,
    fun r ie i j busy free hb hf => by simp [rxRearm, hb, hf]⟩

/-- Settles O35: the descriptor and the buffers at the head of the free queue, and all the others. -/
theorem fillDescriptor : Obligations.FillDescriptor := by
  intro s h x ncl i free hs hf hh hx
  have horder := hs.order
  rw [hf] at horder
  have hi : i < s.cfg.nTx := horder.lt_of_mem_free (by simp)
  obtain ⟨-, -, -, -, -, hhdr, hdata⟩ := txFill_spec s.tx h ncl x s.ctrl.txie hf
  obtain ⟨-, hhdrs, hdatas⟩ := txFill_arena s.tx h ncl x s.ctrl.txie hf
  have hdc : (!x.isEmpty) = decide (0 < x.length) := by cases x <;> simp
  refine ⟨_, BitVec.ofNat 8 h.length, BitVec.ofNat 24 x.length, rfl, toNat_ofNat_of_le (by omega),
    toNat_ofNat_of_le (by omega), ?whole, ?count, hhdr (hs.hdrs ▸ hi), hdata (hs.datas ▸ hi), fun j hj => ⟨?hdr, ?data⟩⟩
  case whole =>
    rw [← hdc]
    simp [State.txFill, Machine.txFill, hf]
  case count =>
    simp only [State.txFill, wordOfNat, BitVec.toNat_add, BitVec.toNat_ofNat]
    omega
  case hdr => rw [State.txFill_tx, hhdrs, getD_set_ne _ _ _ hj]
  case data => rw [State.txFill_tx, hdatas, getD_set_ne _ _ _ hj]

/-- Settles O36: TX_INIT's ring is written in one piece, and RX_INIT's loop arms them all. -/
theorem ringInit : Obligations.RingInit :=
  ⟨.of_decode rfl, .of_lookup .n rfl, .of_decode rfl, .of_lookup .n rfl, fun _ => rfl,
    fun s => congrArg (fun r => Host.Outcome.next (finish .ok { s with rx := r }))
      (rxInit_eq s.cfg.nRx s.ctrl.rxie s.rx)⟩

/-- Settles O37: the checks one after another, and then whether a descriptor is free. -/
theorem txEnqueueCommand : Obligations.TxEnqueueCommand := by
  refine ⟨fun hlen ncl => .of_encode (encode_txEnqueue hlen ncl), .of_lookup .t rfl, fun hlen ncl s =>
    ⟨exec_txEnqueue_of_bad_lengths, fun h0 hncl => ⟨exec_txEnqueue_of_too_big h0 hncl, fun hhdr hdata =>
      ⟨exec_txEnqueue_of_not_rangeOK h0 hncl hhdr hdata, fun hr0 hr1 => ⟨fun hfull => ?full, fun hfree => ?free⟩⟩⟩⟩⟩
  all_goals rw [exec_txEnqueue_of_rangeOK h0 hncl hhdr hdata hr0 hr1]
  case full => rw [if_pos (List.isEmpty_iff.mpr hfull)]; rfl
  case free => rw [if_neg (by simpa using hfree)]; rfl

/-- Settles O38: by whether a packet is ready. -/
theorem rxPollAndDrop : Obligations.RxPollAndDrop :=
  ⟨.of_decode rfl, .of_lookup .n rfl, .of_decode rfl, .of_lookup .n rfl,
    fun _ h => ⟨exec_rxPoll_of_none h, exec_rxDrop_of_none h⟩,
    fun s i h => ⟨_, toNat_rxResult (s.rx.at i), exec_rxPoll_of_some h, exec_rxDrop_of_some h⟩⟩

/-- Settles O39: by whether a packet is ready and its destination exists; the bytes stored read back. -/
theorem rxFetchCommand : Obligations.RxFetchCommand := by
  refine ⟨.of_decode rfl, .of_lookup .n rfl, fun _ => exec_rxFetch_of_none, fun s i h => ⟨fun hr => ?bus, fun hr hm =>
    ⟨_, _, (exec_rxFetch_of_some h).trans (congrArg _ (if_neg (by simp [hr]))), toNat_rxResult (s.rx.at i), ?whole,
      ?stored, fun a ha => ?outside⟩⟩⟩
  case bus => rw [exec_rxFetch_of_some h, if_pos (by simp [hr])]
  case whole => rw [wordOfNat_toNat]; rfl
  case stored =>
    have hread := Memory.read_write hm s.larg0.toNat (s.rx.bytes i (s.rx.at i).size.toNat)
    rwa [RxRing.bytes, bufRead_length] at hread
  case outside => exact Memory.readByte_write_of_outside hm (by simpa [RxRing.bytes] using ha)

/-- Settles O40: by the ring, the index's bound and the queue asked for. -/
theorem ringReads : Obligations.RingReads := by
  refine ⟨fun idx word => ⟨.of_encode ?txWord, .of_encode ?rxWord⟩, .of_lookup .d rfl,
    fun sel => ⟨.of_encode ?txStat, .of_encode ?rxStat⟩, .of_lookup .s rfl, fun idx word s => ?read,
    fun ring s => ?stat⟩
  case txWord => exact encode_descRead idx .tx word
  case rxWord => exact encode_descRead idx .rx word
  case txStat => exact encode_ringStat .tx sel
  case rxStat => exact encode_ringStat .rx sel
  case read =>
    exact ⟨fun h => congrArg Host.Outcome.next (if_pos h),
      fun h => congrArg Host.Outcome.next (if_neg (Nat.not_le.mpr h)),
      fun h => congrArg Host.Outcome.next (if_pos h),
      fun h => congrArg Host.Outcome.next (if_neg (Nat.not_le.mpr h))⟩
  case stat =>
    cases ring
    all_goals
      exact ⟨⟨_, rfl, toNat_ringStatWord_lengths _⟩, _, rfl, toNat_ringStatWord_idle _ _,
        fun i => toNat_ringStatWord_head _ _⟩

end Sys2Proof.Machine
end

section
/-! PROOFS. Ring exhaustion (spec/42_transport.md R126): how many packets are queued decides what the next TX_ENQUEUE
answers. -/

namespace Sys2Proof.Machine

/-! ### The number of packets queued -/

/-- After reclamation every busy descriptor is enabled (R112), so it is free exactly where fewer than N_TX packets are
queued. -/
theorem length_free_txReclaim {s : State} (hs : TxRingOk s) :
    (txReclaim s.tx).free.length + s.tx.queued.length = s.cfg.nTx := by
  have hrot := hs.txReclaim.order.isRotated.perm.length_eq
  have hsorted := hs.txReclaim.order.drainedFirst
  obtain ⟨-, -, -, -, hhead⟩ := txReclaim_spec s.tx
  have hon : ∀ i ∈ (txReclaim s.tx).busy, (s.tx.at i).en = true := by
    obtain hnil | ⟨i, rest, hbusy, hi⟩ := hhead
    · simp [hnil]
    · simp only [State.txReclaim_tx, hbusy, List.pairwise_cons] at hsorted
      rw [hbusy]
      exact List.forall_mem_cons.mpr ⟨hi, fun j hj => hsorted.1 j hj hi⟩
  have hall : (txReclaim s.tx).busy.filter (fun i => ((txReclaim s.tx).at i).en) = (txReclaim s.tx).busy :=
    List.filter_eq_self.mpr hon
  rw [← queued_txReclaim, TxRing.queued, hall, List.length_map]
  simpa [Nat.add_comm] using hrot

/-- A ring of configuration `c` in order, with `m` packets queued. -/
structure Queued (c : Config) (m : Nat) (s : State) : Prop where
  cfg : s.cfg = c
  ring : TxRingOk s
  count : s.tx.queued.length = m

section
variable {c : Config} {m : Nat} {s : State}

/-- While packets are queued the link's pointer is at the first of them (R40). -/
theorem Queued.pointer_enabled (h : Queued c (m + 1) s) : (s.tx.at s.tx.lptr.toNat).en = true := by
  have hp := h.ring.order.pointer
  cases hfind : s.tx.busy.find? (fun i => (s.tx.at i).en) with
  | some p =>
    obtain rfl : p = s.tx.lptr.toNat := by simpa [pointerOf, hfind] using hp
    exact List.find?_some (p := fun i => (s.tx.at i).en) hfind
  | none =>
    have hnone : s.tx.queued = [] := by
      rw [TxRing.queued, List.filter_eq_nil_iff.mpr (List.find?_eq_none.mp hfind), List.map_nil]
    simpa [hnone] using h.count

theorem Queued.linkTxStep (h : Queued c (m + 1) s) (hwf : c.wf = true) : Queued c m (linkTxStep s) := by
  have hen := h.pointer_enabled
  have hcount := h.count
  rw [queued_serve h.ring hen] at hcount
  obtain ⟨⟨-, hn⟩, -⟩ := bounds_of_wf hwf
  have hring : TxRingOk { s with tx := s.tx.serve } := h.ring.serve (h.cfg ▸ hn) hen
  rw [linkTxStep_frame, linkTxStep_tx hen]
  exact ⟨h.cfg, hring.congr rfl rfl, by simpa using hcount⟩

theorem Queued.iterate_linkTxStep (hwf : c.wf = true) {k : Nat} (h : Queued c (m + k) s) :
    Queued c m (Machine.linkTxStep^[k] s) := by
  induction k generalizing s with
  | zero => exact h
  | succ k ih => exact ih (h.linkTxStep hwf)

/-! ### Commands that pass the checks of R120 -/

/-- A valid TX_ENQUEUE reclaims, and then answers by whether a descriptor is free. -/
theorem Command.validEnqueue.run_eq {k : Command} (hk : k.validEnqueue s.cfg) :
    ∃ (h : List Byte) (ncl : Byte) (x : List Byte), ncl.toNat ≤ h.length ∧ h.length ≤ s.cfg.txHdrBuf ∧
      x.length ≤ s.cfg.txDataBuf ∧
      k.run s = .next
        (if (txReclaim s.tx).free.isEmpty then
          finish .eNodesc { s with larg0 := k.a0, larg1 := k.a1, larg2 := k.a2 }.txReclaim
        else finish .ok ({ s with larg0 := k.a0, larg1 := k.a1, larg2 := k.a2 }.txReclaim.txFill h ncl x)) := by
  obtain ⟨hlen, ncl, hi, h0, hncl, hhdr, hdata, hr0, hr1⟩ := hk
  refine ⟨Memory.read s.lmem k.a0.toNat hlen.toNat, ncl, Memory.read s.lmem k.a1.toNat k.a2.toNat, by simpa using hncl,
    by simpa using hhdr, by simpa using hdata, ?_⟩
  rw [Command.run, hi]
  exact exec_txEnqueue_of_rangeOK (s := { s with larg0 := k.a0, larg1 := k.a1, larg2 := k.a2 }) h0 hncl hhdr hdata hr0
    hr1

theorem Queued.run_of_room (hwf : c.wf = true) (h : Queued c m s) (hm : m < c.nTx) {k : Command}
    (hk : k.validEnqueue c) : ∃ t, k.run s = .next t ∧ t.status.code = .ok ∧ Queued c (m + 1) t := by
  obtain ⟨rfl, hring, hcount⟩ := h
  obtain ⟨hd, ncl, x, hncl, hhdr, hdata, hrun⟩ := hk.run_eq
  have hfree : (txReclaim s.tx).free ≠ [] := by
    have hlen := length_free_txReclaim hring
    rw [← List.length_pos_iff]
    omega
  refine ⟨_, hrun.trans (congrArg _ (if_neg (by simpa using hfree))), rfl, rfl, ?ring, ?count⟩
  case ring =>
    have hlatched : TxRingOk { s with larg0 := k.a0, larg1 := k.a1, larg2 := k.a2 } := hring.congr rfl rfl
    exact (hlatched.txReclaim.txFill hwf hncl hhdr hdata).congr rfl rfl
  case count =>
    obtain ⟨p, hp⟩ := queued_txFill hring.txReclaim hfree hd ncl x s.ctrl.txie
    have hqueued : (txFill (txReclaim s.tx) hd ncl x s.ctrl.txie).queued = s.tx.queued ++ [p] :=
      hp.trans (by rw [State.txReclaim_tx, queued_txReclaim])
    exact (congrArg List.length hqueued).trans (by simp [hcount])

theorem Queued.run_of_full (h : Queued c c.nTx s) {k : Command} (hk : k.validEnqueue c) :
    ∃ t, k.run s = .next t ∧ t.status.code = .eNodesc ∧ Queued c c.nTx t := by
  obtain ⟨rfl, hring, hcount⟩ := h
  obtain ⟨hd, ncl, x, -, -, -, hrun⟩ := hk.run_eq
  have hfull : (txReclaim s.tx).free = [] := by
    have hlen := length_free_txReclaim hring
    rw [← List.length_eq_zero_iff]
    omega
  refine ⟨_, hrun.trans (congrArg _ (if_pos (by simpa using hfull))), rfl, rfl, ?ring, ?count⟩
  case ring =>
    have hlatched : TxRingOk { s with larg0 := k.a0, larg1 := k.a1, larg2 := k.a2 } := hring.congr rfl rfl
    exact hlatched.txReclaim.congr rfl rfl
  case count => exact (congrArg List.length (queued_txReclaim s.tx)).trans hcount

/-! ### Runs of commands -/

/-- Valid TX_ENQUEUEs for which there is room give OK, all of them; and then what follows them runs. -/
theorem Queued.runCommands_append (hwf : c.wf = true) {ks rest : List Command} (h : Queued c m s)
    (hroom : m + ks.length ≤ c.nTx) (hks : ∀ k ∈ ks, k.validEnqueue c) :
    ∃ (codes : List (Code × Word)) (t : State), Queued c (m + ks.length) t ∧
      codes.map (·.1) = List.replicate ks.length .ok ∧
      runCommands (ks ++ rest) s = (runCommands rest t).map fun p => (codes ++ p.1, p.2) := by
  induction ks generalizing m s with
  | nil => exact ⟨[], s, h, rfl, by simp⟩
  | cons k ks ih =>
    simp only [List.length_cons] at hroom
    obtain ⟨u, hrun, hcode, hu⟩ := h.run_of_room hwf (by omega) (hks k (by simp))
    obtain ⟨codes, t, ht, hcodes, hall⟩ := ih hu (by omega) fun k' hk' => hks k' (by simp [hk'])
    refine ⟨(u.status.code, u.result) :: codes, t, ?_, by simp [hcodes, hcode, List.replicate_succ], ?_⟩
    · simpa [Nat.add_assoc, Nat.add_comm 1] using ht
    · simp [runCommands, hrun, hall, Function.comp_def]

end

/-! ### The obligation -/

/-- Settles O41: N_TX packets fill the empty ring, and each LINK_TX step makes room for one more. -/
theorem ringExhaustion : Obligations.RingExhaustion := by
  intro s s0 hs hinit ks hlen hks
  have hwf := hs.config
  obtain ⟨⟨hn, -⟩, -⟩ := bounds_of_wf hwf
  have hempty : Queued s.cfg 0 s0 := by
    cases hinit
    exact ⟨rfl, (hs.tx.txInit hn).congr rfl rfl, rfl⟩
  obtain ⟨codes, s1, h1, hcodes, hrun⟩ := hempty.runCommands_append (rest := []) hwf (by omega) hks
  rw [Nat.zero_add, hlen] at h1
  refine ⟨codes, s1, by simpa [runCommands] using hrun, hlen ▸ hcodes, fun k hk => ?_⟩
  obtain ⟨s2, hrun2, hcode2, h2⟩ := h1.run_of_full hk
  refine ⟨s2, hrun2, hcode2, fun more hmore hvalid => ?_⟩
  have hroom : Queued s.cfg (s.cfg.nTx - more.length) (linkTxStep^[more.length] s2) :=
    .iterate_linkTxStep hwf (by rwa [Nat.sub_add_cancel hmore])
  obtain ⟨codes', s3, h3, hcodes', hrun3⟩ := hroom.runCommands_append (rest := [k]) hwf (by omega) hvalid
  rw [Nat.sub_add_cancel hmore] at h3
  obtain ⟨s4, hrun4, hcode4, -⟩ := h3.run_of_full hk
  refine ⟨_, s4, hrun3.trans (by simp only [runCommands, hrun4, Option.map_some]; rfl), ?_⟩
  simp [hcodes', hcode4]

end Sys2Proof.Machine
end

section
/-! PROOFS. How long a drain lasts (spec/42_transport.md R110, spec/43_translog.md R142, R143,
spec/70_reset_and_hazards.md R176): it ends with the packets received, and does not end while the link has another. -/

namespace Sys2Proof.Machine

/-! ### A drain step with a packet ready -/

/-- A packet is ready exactly where one is received and not consumed (R115). -/
theorem exists_rxHead {s : State} (hs : RxRingOk s) (h : s.rx.ready ≠ []) : ∃ k, rxHead s.rx = some k :=
  Option.ne_none_iff_exists'.mp fun hnone => h (ready_nil_of_rxHead_none hs hnone)

theorem RxRingOk.drainStep {s : State} (hs : RxRingOk s) {k : Nat} (hready : rxHead s.rx = some k) :
    RxRingOk (drainStep s) := by
  rw [drainStep_consumed hready]
  exact (hs.rxRearm hready).congr rfl rfl

theorem drainStep_draining {s : State} (hd : Draining s) {k : Nat} (hready : rxHead s.rx = some k) :
    Draining (drainStep s) := by
  rw [drainStep_consumed hready]
  exact hd

theorem ready_drainStep {s : State} (hs : RxRingOk s) {k : Nat} (hready : rxHead s.rx = some k) :
    s.rx.ready = s.rx.bytes k (s.rx.at k).size.toNat :: (drainStep s).rx.ready := by
  rw [drainStep_consumed hready, ready_rxRearm hs hready s.ctrl.rxie]

theorem runFor_succ {f : State → Host.Outcome State Fault Refusal} {s t : State} (h : f s = .next t) (n : Nat) :
    runFor f (n + 1) s = runFor f n t := by
  simp only [runFor, h]

/-! ### With no packet arriving -/

/-- As many turns of CORE as packets are received, and one more, end the drain. -/
theorem coreTurns_end_drain {n : Nat} {s : State} (hs : RxRingOk s) (hd : Draining s) (hn : s.rx.ready.length = n) :
    ∃ t, coreTurns (n + 1) s = .next t ∧ t.status.busy = false ∧ t.status.code = .ok ∧ rxHead t.rx = none := by
  induction n generalizing s with
  | zero =>
    have hempty : rxHead s.rx = none := Option.eq_none_iff_forall_ne_some.mpr fun k hready => by
      simp [ready_drainStep hs hready] at hn
    obtain ⟨v, hend⟩ := drainStep_ended hempty
    refine ⟨drainStep s, runFor_succ (coreTurn_drain hd.1 hd.2) 0, ?_⟩
    rw [hend]
    exact ⟨rfl, rfl, hempty⟩
  | succ n ih =>
    obtain ⟨k, hready⟩ := exists_rxHead hs (List.ne_nil_of_length_eq_add_one hn)
    rw [ready_drainStep hs hready, List.length_cons] at hn
    obtain ⟨t, ht, hend⟩ := ih (hs.drainStep hready) (drainStep_draining hd hready) (by omega)
    exact ⟨t, (runFor_succ (coreTurn_drain hd.1 hd.2) _).trans ht, hend⟩

/-- Settles O47: each turn consumes one of the packets received, which are no more than the busy descriptors. -/
theorem drainTerminates : Obligations.DrainTerminates := by
  intro s hs hmode
  obtain ⟨t, ht, hbusy, hcode, hempty⟩ := coreTurns_end_drain hs.rx ⟨hs.latch hmode, hmode⟩ rfl
  refine ⟨_, t, ?_, ht, hbusy, hcode, hempty⟩
  have hle : s.rx.ready.length ≤ s.rx.busy.length := by
    rw [RxRing.ready, List.length_map]
    exact List.length_filter_le ..
  omega

/-! ### With another packet always ready -/

/-- Where the link waits at a descriptor, the head of the busy queue is drained (R40). -/
theorem rxHead_of_pointer_off {s : State} (hs : RxRingOk s) (hbusy : s.rx.busy ≠ [])
    (hoff : (s.rx.at s.rx.lptr.toNat).en = false) : ∃ k, rxHead s.rx = some k := by
  obtain ⟨i, rest, hb⟩ := List.exists_cons_of_ne_nil hbusy
  refine ⟨i, (rxHead_eq_some_iff ..).mpr ⟨⟨rest, hb⟩, ?_⟩⟩
  by_contra hon
  have hp := hs.order.pointer
  obtain rfl : i = s.rx.lptr.toNat := by simpa [pointerOf, hb, hon] using hp
  exact hon hoff

/-- A run in which, over and over, the packet `p` arrives, LINK_RX takes its turn and then CORE: its state, with STATUS
and the drain as in `s0`. -/
structure Fed (p : List Byte) (s0 s : State) : Prop where
  config : s.cfg.wf = true
  ring : RxRingOk s
  armed : s.rx.busy ≠ []
  short : ∀ q ∈ s.rxWire, q.length < 2 ^ 24
  turns : s.again = [.arrive p, .linkRx, .core]
  status : s.status = s0.status
  mode : s.drainMode = s0.drainMode

namespace Fed

variable {p : List Byte} {s0 s : State}

theorem setSched (h : Fed p s0 s) (q : List Turn) : Fed p s0 { s with sched := q } :=
  ⟨h.config, h.ring.congr rfl rfl, h.armed, h.short, h.turns, h.status, h.mode⟩

theorem arrive (h : Fed p s0 s) (hp : p.length < 2 ^ 24) (hsched : s.sched = []) :
    ∃ t, step s = .next t ∧ Fed p s0 t ∧ t.sched = [.linkRx, .core] ∧ t.drainN = s.drainN ∧ t.rxWire ≠ [] := by
  refine ⟨{ s with rxWire := s.rxWire ++ [p], sched := [.linkRx, .core] }, step_of_again_cons hsched h.turns,
    ⟨h.config, h.ring.congr rfl rfl, h.armed, fun q hq => ?_, h.turns, h.status, h.mode⟩, rfl, rfl, by simp⟩
  obtain hq | hq := List.mem_append.mp hq
  · exact h.short q hq
  · exact List.mem_singleton.mp hq ▸ hp

/-- Whether LINK_RX takes a packet or waits, a packet is ready after its turn. -/
theorem linkRx (h : Fed p s0 s) (hwire : s.rxWire ≠ []) :
    ∃ t, linkRxStep s = .next t ∧ Fed p s0 t ∧ t.sched = s.sched ∧ t.drainN = s.drainN ∧ ∃ k, rxHead t.rx = some k := by
  cases hen : (s.rx.at s.rx.lptr.toNat).en with
  | false => exact ⟨s, linkRxStep_waiting (.inl hen), h, rfl, rfl, rxHead_of_pointer_off h.ring h.armed hen⟩
  | true =>
    obtain ⟨q, wire, hq⟩ := List.exists_cons_of_ne_nil hwire
    have hlen : q.length < 2 ^ 24 := h.short q (by simp [hq])
    obtain ⟨-, -, -, -, -, -, hbuf⟩ := bounds_of_wf h.config
    have hring := h.ring.receive h.config hen q
    obtain ⟨k, hready⟩ := exists_rxHead hring (by simp [ready_receive h.ring (by omega) hen q])
    exact ⟨_, (linkRxStep_enabled hq hen).trans (if_neg (by omega)),
      ⟨h.config, hring.congr rfl rfl, h.armed, fun x hx => h.short x (by simp [hq, hx]), h.turns, h.status, h.mode⟩, rfl,
      rfl, k, hready⟩

/-- With a packet ready CORE's turn consumes it and the drain goes on. -/
theorem core (h : Fed p s0 s) (hd : Draining s0) {k : Nat} (hready : rxHead s.rx = some k) :
    coreTurn s = .next (drainStep s) ∧ Fed p s0 (drainStep s) ∧ (drainStep s).sched = s.sched ∧
      (drainStep s).drainN = s.drainN + 1 := by
  refine ⟨coreTurn_drain (h.status ▸ hd.1) (h.mode ▸ hd.2), ?_⟩
  have hring := h.ring.drainStep hready
  obtain ⟨⟨rest, hb⟩, -⟩ := (rxHead_eq_some_iff ..).mp hready
  obtain ⟨-, hbusy, -⟩ := rxRearm_spec s.rx s.ctrl.rxie hb (h.ring.armed.resolve_left h.armed)
  rw [drainStep_consumed hready] at hring ⊢
  exact ⟨⟨h.config, hring, by simp [hbusy], h.short, h.turns, h.status, h.mode⟩, rfl, rfl⟩

/-- Three steps: a packet arrives, LINK_RX takes its turn, and CORE consumes a packet. -/
theorem cycle (h : Fed p s0 s) (hd : Draining s0) (hp : p.length < 2 ^ 24) (hsched : s.sched = []) :
    ∃ s1 s2 s3, (step s = .next s1 ∧ step s1 = .next s2 ∧ step s2 = .next s3) ∧ Fed p s0 s1 ∧ Fed p s0 s2 ∧
      Fed p s0 s3 ∧ s3.sched = [] ∧ s3.drainN = s.drainN + 1 := by
  obtain ⟨s1, hs1, h1, hsched1, hn1, hwire⟩ := h.arrive hp hsched
  obtain ⟨s2, hs2, h2, hsched2, hn2, k, hready⟩ := (h1.setSched [.core]).linkRx hwire
  obtain ⟨hs3, h3, hsched3, hn3⟩ := (h2.setSched []).core hd hready
  exact ⟨s1, s2, _, ⟨hs1, (step_of_sched_cons hsched1).trans hs2, (step_of_sched_cons hsched2).trans hs3⟩, h1, h2, h3,
    hsched3, hn3.trans (congrArg (· + 1) (hn2.trans hn1))⟩

/-- The drain is still under way after any number of steps. -/
theorem steps (hd : Draining s0) (hp : p.length < 2 ^ 24) :
    ∀ (n : Nat) {s : State}, Fed p s0 s → s.sched = [] → ∃ t, Machine.steps n s = .next t ∧ Fed p s0 t
  | 0, s, h, _ => ⟨s, rfl, h⟩
  | 1, s, h, hsched => by
    obtain ⟨s1, _, _, ⟨hs1, -, -⟩, h1, -⟩ := h.cycle hd hp hsched
    exact ⟨s1, runFor_succ hs1 0, h1⟩
  | 2, s, h, hsched => by
    obtain ⟨s1, s2, _, ⟨hs1, hs2, -⟩, -, h2, -⟩ := h.cycle hd hp hsched
    exact ⟨s2, (runFor_succ hs1 1).trans (runFor_succ hs2 0), h2⟩
  | n + 3, s, h, hsched => by
    obtain ⟨s1, s2, s3, ⟨hs1, hs2, hs3⟩, -, -, h3, hsched3, -⟩ := h.cycle hd hp hsched
    obtain ⟨t, ht, hfed⟩ := steps hd hp n h3 hsched3
    exact ⟨t, (runFor_succ hs1 _).trans ((runFor_succ hs2 _).trans ((runFor_succ hs3 n).trans ht)), hfed⟩

/-- Every cycle consumes one packet. -/
theorem cycles (hd : Draining s0) (hp : p.length < 2 ^ 24) (n : Nat) (h : Fed p s0 s) (hsched : s.sched = []) :
    ∃ t, Machine.steps (3 * n) s = .next t ∧ t.drainN = s.drainN + BitVec.ofNat 32 n := by
  induction n generalizing s with
  | zero => exact ⟨s, rfl, by simp⟩
  | succ n ih =>
    obtain ⟨s1, s2, s3, ⟨hs1, hs2, hs3⟩, -, -, h3, hsched3, hn3⟩ := h.cycle hd hp hsched
    obtain ⟨t, ht, hn⟩ := ih h3 hsched3
    refine ⟨t, (runFor_succ hs1 _).trans ((runFor_succ hs2 _).trans ((runFor_succ hs3 _).trans ht)), ?_⟩
    rw [hn, hn3, BitVec.add_assoc, Nat.add_comm n 1, BitVec.ofNat_add]
    rfl

end Fed

/-- Settles O60: in every cycle of the three turns a packet is ready when CORE's comes, so its drain step never ends the
drain. -/
theorem drainMayRunOn : Obligations.DrainMayRunOn := by
  intro s p hs hmode hbusy hshort hsched hagain n
  have hd : Draining s := ⟨hs.latch hmode, hmode⟩
  have hfed : Fed p s s :=
    ⟨hs.config, hs.rx, hbusy, fun q hq => hshort q (by simp [hq]), hagain, rfl, rfl⟩
  have hp : p.length < 2 ^ 24 := hshort p (by simp)
  obtain ⟨t, ht, hend⟩ := Fed.steps hd hp n hfed hsched
  exact ⟨⟨t, ht, hend.status, hend.status ▸ hd.1, hend.mode⟩, Fed.cycles hd hp n hfed hsched⟩

end Sys2Proof.Machine
end

section
/-! PROOFS. The slot procedures (spec/43_translog.md R130 to R132), the commands on the slot table and LINK_LOAD (R134
to R138), answer by answer, and how many TL_GRABs a table has room for (R146). -/

namespace Sys2Proof.Machine

/-! ### Match, grab and release -/

theorem slotMatch_iff (s : State) (t : Nat) : s.slotMatch t = true ↔ t < s.cfg.cSlots ∧ (s.slot t).used = true := by
  simp [State.slotMatch]

theorem slot_of_ge {s : State} {j : Nat} (h : s.slots.length ≤ j) : s.slot j = Slot.idle :=
  List.getD_eq_default _ _ h

theorem slot_of_set {s t : State} {j : Nat} {e : Slot} (ht : t.slots = s.slots.set j e) (hj : j < s.slots.length)
    (k : Nat) : t.slot k = if k = j then e else s.slot k := by
  rw [State.slot, ht, getD_set_of_lt hj, State.slot]

section
variable {s : State} (hsize : s.slots.length = s.cfg.cSlots) (hd : Bool) (a : Word)
include hsize

theorem grab_of_full (h : ∀ j, j < s.cfg.cSlots → (s.slot j).used = true) : s.grab hd a = none :=
  (grab_none_iff s hd a).mpr fun e he => by
    obtain ⟨j, hj, rfl⟩ := List.getElem_of_mem he
    exact State.slot_eq_getElem hj ▸ h j (hsize ▸ hj)

/-- The slot grabbed is the one that is free below no other free one (R131). -/
theorem grab_of_lowest {j : Nat} (hj : j < s.cfg.cSlots) (hfree : (s.slot j).used = false)
    (hbelow : ∀ k, k < j → (s.slot k).used = true) :
    s.grab hd a = some (j, { s with slots := s.slots.set j ⟨true, hd, a⟩, pend := s.pend + 1 }) := by
  cases hg : s.grab hd a with
  | none =>
    have hall := (grab_none_iff s hd a).mp hg _ (List.getElem_mem (hsize ▸ hj))
    rw [← State.slot_eq_getElem (hsize ▸ hj)] at hall
    simp [hfree] at hall
  | some p =>
    obtain ⟨k, t⟩ := p
    obtain ⟨-, hfree', hbelow', rfl⟩ := grab_some s hd a hg
    obtain rfl : k = j := by
      rcases Nat.lt_trichotomy k j with hlt | heq | hgt
      · simp [hbelow k hlt] at hfree'
      · exact heq
      · simp [hbelow' j hgt] at hfree
    rfl

/-- `release` frees its slot and no other (R132). -/
theorem used_of_used_release (j k : Nat) (h : ((s.release j).slot k).used = true) :
    k ≠ j ∧ (s.slot k).used = true := by
  by_cases hj : j < s.cfg.cSlots ∧ (s.slot j).used = true
  · rw [release_used s j hj.1 hj.2, slot_of_set rfl (hsize ▸ hj.1)] at h
    by_cases hkj : k = j
    · simp [hkj, Slot.idle] at h
    · exact ⟨hkj, by rwa [if_neg hkj] at h⟩
  · rw [release_idle s j hj] at h
    refine ⟨?_, h⟩
    rintro rfl
    refine hj ⟨?_, h⟩
    by_contra hge
    simp [slot_of_ge (hsize.trans_le (Nat.not_lt.mp hge)), Slot.idle] at h

end

/-! ### Releasing every slot -/

theorem SlotsOk.release_any {s : State} (h : SlotsOk s) (j : Nat) : SlotsOk (s.release j) := by
  by_cases hj : j < s.cfg.cSlots ∧ (s.slot j).used = true
  · rw [release_used s j hj.1 hj.2]
    exact h.release hj.1 hj.2
  · rwa [release_idle s j hj]

/-- Releasing some slots one after another keeps the table's invariant, and leaves none of them in use. -/
theorem foldl_release {s : State} (h : SlotsOk s) (l : List Nat) :
    SlotsOk (l.foldl State.release s) ∧
      ∀ k, ((l.foldl State.release s).slot k).used = true → k ∉ l ∧ (s.slot k).used = true := by
  induction l generalizing s with
  | nil => exact ⟨h, fun k hk => ⟨List.not_mem_nil, hk⟩⟩
  | cons j l ih =>
    obtain ⟨hok, hused⟩ := ih (h.release_any j)
    refine ⟨hok, fun k hk => ?_⟩
    obtain ⟨hkl, hk'⟩ := hused k hk
    obtain ⟨hkj, hks⟩ := used_of_used_release h.size j k hk'
    exact ⟨by simp [hkj, hkl], hks⟩

theorem SlotsOk.empty {s : State} (h : SlotsOk s) (hfree : ∀ e ∈ s.slots, e.used = false) :
    s.slots = List.replicate s.cfg.cSlots Slot.idle ∧ s.pend = 0 := by
  refine ⟨List.eq_replicate_iff.mpr ⟨h.size, fun e he => h.idle e he (hfree e he)⟩, BitVec.eq_of_toNat_eq ?_⟩
  rw [h.count, State.usedSlots, List.countP_eq_zero.mpr (by simpa using hfree)]
  rfl

/-- TL_RESET's table: every slot idle, and PEND 0 (R137). -/
theorem releaseAll_eq {s : State} (h : SlotsOk s) :
    s.releaseAll = { s with slots := List.replicate s.cfg.cSlots Slot.idle, pend := 0 } := by
  obtain ⟨slots, pend, hframe⟩ := releaseAll_frame s
  obtain ⟨hok, hused⟩ : SlotsOk s.releaseAll ∧
      ∀ k, (s.releaseAll.slot k).used = true → k ∉ List.range s.cfg.cSlots ∧ (s.slot k).used = true :=
    foldl_release h (List.range s.cfg.cSlots)
  have hfree : ∀ e ∈ s.releaseAll.slots, e.used = false := fun e he => by
    obtain ⟨k, hk, rfl⟩ := List.getElem_of_mem he
    by_contra hne
    rw [← State.slot_eq_getElem hk] at hne
    refine (hused k (by simpa using hne)).1 (List.mem_range.mpr ?_)
    rwa [hok.size, hframe] at hk
  obtain ⟨hslots, hpend⟩ := hok.empty hfree
  rw [hframe] at hslots hpend ⊢
  exact congrArg₂ (fun x y => { s with slots := x, pend := y }) hslots hpend

/-! ### The commands, answer by answer -/

theorem encode_tlQuery (id : BitVec 16) (word : Bool) :
    encode (.tlQuery id word) = (0x42000000#32 ||| (BitVec.ofBool word).setWidth 32 <<< 16) ||| id.setWidth 32 := by
  rw [encode, commandWord_eq_or, BitVec.setWidth_or, placeBit, setWidth_place _ 16 (by decide),
    setWidth_place id 0 (by decide), BitVec.shiftLeft_zero, ← BitVec.or_assoc]
  rfl

section
variable {s : State}

theorem exec_tlGrab_of_none {hd : Bool} (h : s.grab hd s.larg0 = none) :
    exec (.tlGrab hd) s = .next (finish .eExhausted s) := by
  simp only [exec, execTlGrab, h]

theorem exec_tlGrab_of_some {hd : Bool} {j : Nat} {u : State} (h : s.grab hd s.larg0 = some (j, u)) :
    exec (.tlGrab hd) s = .next (finishWith .ok (wordOfNat j) u) := by
  simp only [exec, execTlGrab, h]

theorem exec_tlQuery_of_ge {id : BitVec 16} (h : s.cfg.cSlots ≤ id.toNat) (word : Bool) :
    exec (.tlQuery id word) s = .next (finish .eInval s) :=
  congrArg Host.Outcome.next (if_pos h)

theorem exec_tlQuery_flags {id : BitVec 16} (h : id.toNat < s.cfg.cSlots) :
    exec (.tlQuery id false) s =
      .next (finishWith .ok (flagAt (s.slot id.toNat).hd 1 ||| flagAt (s.slot id.toNat).used 0) s) :=
  congrArg Host.Outcome.next (if_neg (Nat.not_le.mpr h))

theorem exec_tlQuery_address {id : BitVec 16} (h : id.toNat < s.cfg.cSlots) :
    exec (.tlQuery id true) s = .next (finishWith .ok (s.slot id.toNat).laddr s) :=
  congrArg Host.Outcome.next (if_neg (Nat.not_le.mpr h))

/-- TL_QUERY's flags as a number (R136). -/
theorem toNat_slotFlags (e : Slot) : (flagAt e.hd 1 ||| flagAt e.used 0).toNat = 2 * e.hd.toNat + e.used.toNat := by
  have hused := e.used.toNat_le
  have hsum := toNat_or_flagAt (toNat_flagAt e.used 0) e.hd 1
  rw [BitVec.or_comm, hsum]
  omega

theorem exec_tlReset (h : SlotsOk s) :
    exec .tlReset s =
      .next (finish .ok { s with slots := List.replicate s.cfg.cSlots Slot.idle, pend := 0 }) :=
  congrArg (fun u => Host.Outcome.next (finish .ok u)) (releaseAll_eq h)

end

/-! ### A table filled from its lowest slot up -/

/-- The slots in use are the lowest `m`, and PEND counts them. -/
structure Taken (c : Config) (m : Nat) (s : State) : Prop where
  cfg : s.cfg = c
  size : s.slots.length = c.cSlots
  used : ∀ j, j < c.cSlots → (s.slot j).used = decide (j < m)
  count : s.pend = wordOfNat m

section
variable {c : Config} {m : Nat} {s : State}

theorem Taken.of_empty (hcfg : s.cfg = c) (hslots : s.slots = List.replicate c.cSlots Slot.idle) (hpend : s.pend = 0) :
    Taken c 0 s :=
  ⟨hcfg, by simp [hslots], fun j hj => by simp [State.slot, hslots, hj, Slot.idle], hpend⟩

theorem Taken.latch (h : Taken c m s) (x y z : Word) : Taken c m { s with larg0 := x, larg1 := y, larg2 := z } :=
  ⟨h.cfg, h.size, h.used, h.count⟩

theorem Taken.grab_of_room (h : Taken c m s) (hm : m < c.cSlots) (hd : Bool) (a : Word) :
    ∃ u, s.grab hd a = some (m, u) ∧ Taken c (m + 1) u := by
  obtain ⟨rfl, hsize, hused, hcount⟩ := h
  refine ⟨_, grab_of_lowest hsize hd a hm (by simp [hused m hm]) fun k hk => by simp [hused k (by omega), hk], rfl,
    by simpa using hsize, fun j hj => ?_, by simp [hcount, wordOfNat, BitVec.ofNat_add]⟩
  rw [slot_of_set rfl (hsize ▸ hm)]
  by_cases hjm : j = m
  · simp [hjm]
  · have hlt : j < m + 1 ↔ j < m := by omega
    simpa [hjm, hlt] using hused j hj

theorem Taken.grab_of_full (h : Taken c c.cSlots s) (hd : Bool) (a : Word) : s.grab hd a = none := by
  obtain ⟨rfl, hsize, hused, -⟩ := h
  exact Machine.grab_of_full hsize hd a fun j hj => by simpa [hj] using hused j hj

/-- TL_GRABs for which there is room give OK with the slots one after another (R134, R146). -/
theorem Taken.runCommands (h : Taken c m s) {ks : List Command} (hroom : m + ks.length ≤ c.cSlots)
    (hks : ∀ k ∈ ks, ∃ hd : Bool, k.instr = .tlGrab hd) :
    ∃ t, Machine.runCommands ks s =
        some ((List.range' m ks.length).map fun j => (Code.ok, wordOfNat j), t) ∧ Taken c (m + ks.length) t := by
  induction ks generalizing m s with
  | nil => exact ⟨s, rfl, h⟩
  | cons k ks ih =>
    simp only [List.length_cons] at hroom
    obtain ⟨hd, hi⟩ := hks k (by simp)
    obtain ⟨u, hg, hu⟩ := (h.latch k.a0 k.a1 k.a2).grab_of_room (by omega) hd k.a0
    have hrun : k.run s = .next (finishWith .ok (wordOfNat m) u) :=
      (congrArg (exec · _) hi).trans (exec_tlGrab_of_some hg)
    have hended : Taken c (m + 1) (finishWith .ok (wordOfNat m) u) := ⟨hu.cfg, hu.size, hu.used, hu.count⟩
    obtain ⟨t, ht, htaken⟩ := ih hended (by omega) fun k' hk' => hks k' (by simp [hk'])
    refine ⟨t, ?_, by simpa [Nat.add_assoc, Nat.add_comm 1] using htaken⟩
    simp [Machine.runCommands, hrun, ht, List.range'_succ]

end

/-! ### The obligations -/

/-- Settles O42: the lowest free slot is the only one free below no other. -/
theorem slotProcedures : Obligations.SlotProcedures := fun s hsize =>
  ⟨slotMatch_iff s, fun hd a => ⟨grab_of_full hsize hd a, fun _ => grab_of_lowest hsize hd a⟩,
    fun j => ⟨release_used s j, fun h => release_idle s j fun ⟨hj, hused⟩ => by
      obtain hge | hfree := h
      · omega
      · simp [hused] at hfree⟩⟩

/-- Settles O43: each command is its arm of `exec`, and TL_RESET releases the slots one after another. -/
theorem slotCommands : Obligations.SlotCommands :=
  ⟨.of_decode rfl, .of_decode rfl, .of_lookup .f1 rfl,
    fun id => .of_encode (commandWord_place_zero 0x41 id (by decide)), .of_lookup .h16 rfl,
    fun id => ⟨.of_encode (encode_tlQuery id false), .of_encode (encode_tlQuery id true)⟩, .of_lookup .q rfl,
    .of_decode rfl, .of_lookup .n rfl, .of_decode rfl, .of_lookup .n rfl,
    fun _ _ => ⟨exec_tlGrab_of_none, fun _ _ => exec_tlGrab_of_some⟩, fun _ _ => rfl,
    fun id s => ⟨exec_tlQuery_of_ge, fun h =>
      ⟨⟨_, toNat_slotFlags (s.slot id.toNat), exec_tlQuery_flags h⟩, exec_tlQuery_address h⟩⟩,
    fun _ => exec_tlReset, fun _ => ⟨_, rfl, rfl, rfl, rfl, rfl, rfl, rfl, rfl, rfl⟩⟩

/-- Settles O49: each TL_GRAB takes the lowest free slot, the number of slots taken, until the table is full. -/
theorem slotCapacity : Obligations.SlotCapacity := by
  intro s s0 hs hreset ks hlen hks
  obtain ⟨-, -, hslots, -⟩ := bounds_of_wf hs.config
  rw [exec_tlReset hs.slots] at hreset
  cases hreset
  have hempty := Taken.of_empty (c := s.cfg)
    (s := finish .ok { s with slots := List.replicate s.cfg.cSlots Slot.idle, pend := 0 }) rfl rfl rfl
  obtain ⟨s1, hrun, hfull⟩ := hempty.runCommands (by omega) hks
  rw [Nat.zero_add, hlen] at hfull
  rw [hlen, ← List.range_eq_range'] at hrun
  refine ⟨s1, hrun, by rw [hfull.count, wordOfNat, toNat_ofNat_of_le (by omega)], fun k hd hi => ?_⟩
  have hgrab := (hfull.latch k.a0 k.a1 k.a2).grab_of_full hd k.a0
  exact ⟨_, (congrArg (exec · _) hi).trans (exec_tlGrab_of_none hgrab), rfl, rfl, rfl, rfl⟩

end Sys2Proof.Machine
end

section
/-! PROOFS. The SUBMITs (spec/43_translog.md R139 to R141): the manager's header byte by byte, the checks one after
another, and what follows once they pass. -/

namespace Sys2Proof.Machine

/-! ### The manager's header -/

/-- The manager's header for slot `j` (R139, R97): `ib` is the instruction byte without its reply address length. -/
def managerHeader (l : LinkCfg) (ib j : Nat) (addr dlen : Word) : List Byte :=
  pathBytes l.path l.pathLen ++ [l.dst, 0x01, BitVec.ofNat 8 (ib + l.rpathLen.toNat / 4), l.key] ++
    pathBytes l.rpath l.rpathLen ++ [l.src] ++ be16 (BitVec.ofNat 16 j) ++ [0x00] ++ be32 addr ++
    be24 (BitVec.ofNat 24 dlen.toNat)

theorem length_managerHeader (l : LinkCfg) (ib j : Nat) (addr dlen : Word) :
    (managerHeader l ib j addr dlen).length = l.pathLen.toNat + l.rpathLen.toNat + 15 := by
  simp only [managerHeader, List.length_append, pathBytes_length, be16_length, be24_length, be32_length,
    List.length_cons, List.length_nil]
  omega

/-- The instruction byte's three fields do not overlap (R70, R139). -/
theorem managerInstr_eq (code : BitVec 4) (k : Nat) (hk : k < 4) :
    0x40#8 ||| (0#2 ++ code ++ 0#2) ||| BitVec.ofNat 8 k = BitVec.ofNat 8 (0x40 + 4 * code.toNat + k) := by
  revert code k
  decide

/-- A command with code 0x3 or 0xB has no reserved byte, and a data length (R72). -/
theorem managerInstr_shape (c : Config) {ib : Nat} (hib : ib = 0x6C ∨ ib = 0x4C) {k : Nat} (hk : k < 4) :
    isCmd (BitVec.ofNat 8 (ib + k)) = true ∧ hasRsvd c (BitVec.ofNat 8 (ib + k)) = false ∧
      omitsDlen c (BitVec.ofNat 8 (ib + k)) = false := by
  have hbits : ∀ ib ∈ [0x6C, 0x4C], ∀ k < 4, isCmd (BitVec.ofNat 8 (ib + k)) = true ∧
      (isWrite (BitVec.ofNat 8 (ib + k)) = false ∨ replyReq (BitVec.ofNat 8 (ib + k)) = true) := by decide
  obtain ⟨hcmd, hreply⟩ := hbits ib (by simpa using hib) k hk
  refine ⟨hcmd, by simp [hasRsvd, hcmd], ?_⟩
  cases hc : c.dlenOmit with
  | writeReply => simp [omitsDlen, hc, hcmd]
  | writeCmdNoReply =>
    obtain hread | hreply := hreply
    · simp [omitsDlen, hc, hread]
    · simp [omitsDlen, hc, hreply]

/-- The serialized manager's packet (R139). -/
theorem ser_managerPkt (c : Config) {l : LinkCfg} (hl : l.rpathLen.toNat ≤ 12) {code : BitVec 4} {ib : Nat}
    (hcode : ib = 0x40 + 4 * code.toNat) (hib : ib = 0x6C ∨ ib = 0x4C) (j : Nat) (addr dlen : Word) :
    ser c (managerPkt l code j addr (dlen.extractLsb' 0 24)) = managerHeader l ib j addr dlen := by
  have hinstr : (managerPkt l code j addr (dlen.extractLsb' 0 24)).instr = BitVec.ofNat 8 (ib + l.rpathLen.toNat / 4) :=
    hcode ▸ managerInstr_eq code _ (by omega)
  obtain ⟨hcmd, hrsvd, hdlen⟩ := managerInstr_shape c hib (k := l.rpathLen.toNat / 4) (by omega)
  have hlow : dlen.extractLsb' 0 24 = BitVec.ofNat 24 dlen.toNat := BitVec.eq_of_toNat_eq (by simp)
  rw [ser, hinstr, hcmd, hrsvd, hdlen]
  simp [managerHeader, managerPkt, hlow]

/-! ### Once the checks pass -/

/-- What both SUBMITs do after their checks: take a slot and send, or end E_EXHAUSTED (R140, R141). -/
def submitTake (hd : Bool) (a : Word) (code : BitVec 4) (x : List Byte) (s : State) : State :=
  match s.grab hd a with
  | none => finish .eExhausted s
  | some (j, u) => submitSend code x j u

section
variable {hd : Bool} {a : Word} {code : BitVec 4} {x : List Byte} {s : State}

theorem submitTake_of_none (hg : s.grab hd a = none) : submitTake hd a code x s = finish .eExhausted s := by
  simp only [submitTake, hg]

variable {j : Nat} {u : State} (hg : s.grab hd a = some (j, u))
include hg

theorem submitTake_of_full (hfull : (txReclaim s.tx).free = []) :
    submitTake hd a code x s = finishWith .eNodesc (wordOfNat j) { u with tx := txReclaim s.tx } := by
  obtain ⟨-, -, -, rfl⟩ := grab_some s hd a hg
  simp only [submitTake, hg, submitSend]
  exact if_pos (List.isEmpty_iff.mpr hfull)

theorem submitTake_of_free (hl : LinkOk s) {ib : Nat} (hcode : ib = 0x40 + 4 * code.toNat)
    (hib : ib = 0x6C ∨ ib = 0x4C) (hfree : (txReclaim s.tx).free ≠ []) :
    submitTake hd a code x s = finishWith .ok (wordOfNat j)
      ({ u with tx := txReclaim s.tx }.txFill (managerHeader s.link ib j s.larg0 s.larg2) s.link.pathLen x) := by
  have hrl : s.link.rpathLen.toNat ≤ 12 := by
    have hmem := hl.rpathLen_ok
    simp only [List.mem_cons, List.not_mem_nil, or_false] at hmem
    omega
  rw [← ser_managerPkt s.cfg hrl hcode hib]
  obtain ⟨-, -, -, rfl⟩ := grab_some s hd a hg
  simp only [submitTake, hg, submitSend]
  exact if_neg (by simpa using hfree)

end

/-- The answers of a command that has come to take its slot (R140, R141). -/
theorem answers_of_submitTake {o : Host.Outcome State Fault Refusal} {hd : Bool} {a : Word} {code : BitVec 4}
    {x : List Byte} {s : State} {ib : Nat} (ho : o = .next (submitTake hd a code x s)) (hl : LinkOk s)
    (hcode : ib = 0x40 + 4 * code.toNat) (hib : ib = 0x6C ∨ ib = 0x4C) :
    (s.grab hd a = none → o = .next (finish .eExhausted s)) ∧
    ∀ (j : Nat) (u : State), s.grab hd a = some (j, u) →
      ((txReclaim s.tx).free = [] → o = .next (finishWith .eNodesc (wordOfNat j) { u with tx := txReclaim s.tx })) ∧
      ((txReclaim s.tx).free ≠ [] →
        (managerHeader s.link ib j s.larg0 s.larg2).length = s.link.pathLen.toNat + s.link.rpathLen.toNat + 15 ∧
        o = .next (finishWith .ok (wordOfNat j)
          ({ u with tx := txReclaim s.tx }.txFill (managerHeader s.link ib j s.larg0 s.larg2) s.link.pathLen x))) := by
  subst ho
  exact ⟨fun hg => congrArg _ (submitTake_of_none hg), fun j u hg =>
    ⟨fun hfull => congrArg _ (submitTake_of_full hg hfull), fun hfree =>
      ⟨length_managerHeader .., congrArg _ (submitTake_of_free hg hl hcode hib hfree)⟩⟩⟩

/-! ### The checks -/

theorem expectedReplyLen_eq (c : Config) (n : Nat) :
    expectedReplyLen c n = 10 + c.replyRsvd.toNat + 1 + (if 0 < n then n + 1 else 0) := by
  cases hc : c.replyRsvd <;> simp [expectedReplyLen, hc]

section
variable {s : State}

theorem exec_submitWrite_of_long (h : 2 ^ 24 ≤ s.larg2.toNat) : exec .submitWrite s = .next (finish .eInval s) :=
  congrArg Host.Outcome.next (if_pos (by simp only [State.a2]; omega))

theorem exec_submitRead_of_long (h : 2 ^ 24 ≤ s.larg2.toNat) : exec .submitRead s = .next (finish .eInval s) :=
  congrArg Host.Outcome.next (if_pos (by simp only [State.a2]; omega))

variable (h24 : s.larg2.toNat < 2 ^ 24)
include h24

theorem exec_submitWrite_of_too_big (h : s.cfg.txHdrBuf < s.managerHdrLen ∨ s.cfg.txDataBuf < s.larg2.toNat) :
    exec .submitWrite s = .next (finish .eToobig s) :=
  congrArg Host.Outcome.next <|
    (if_neg (by simp only [State.a2]; omega)).trans (if_pos (by simpa [State.a2] using h))

theorem exec_submitRead_of_too_big
    (h : s.cfg.txHdrBuf < s.managerHdrLen ∨ s.cfg.rxBuf < expectedReplyLen s.cfg s.larg2.toNat) :
    exec .submitRead s = .next (finish .eToobig s) := by
  refine congrArg Host.Outcome.next ((if_neg (by simp only [State.a2]; omega)).trans ?_)
  by_cases hhdr : s.cfg.txHdrBuf < s.managerHdrLen
  · exact if_pos hhdr
  · exact (if_neg hhdr).trans (if_pos (h.resolve_left hhdr))

section
variable (hhdr : s.managerHdrLen ≤ s.cfg.txHdrBuf) (hdata : s.larg2.toNat ≤ s.cfg.txDataBuf)
include hhdr hdata

/-- Past the checks of the lengths. -/
theorem exec_submitWrite_of_fits :
    exec .submitWrite s = .next
      (if !rangeOK s.cfg s.larg1.toNat s.larg2.toNat then finish .eBus s
      else submitTake false 0 0xB (Memory.read s.lmem s.larg1.toNat s.larg2.toNat) s) :=
  congrArg Host.Outcome.next <|
    (if_neg (by simp only [State.a2]; omega)).trans (if_neg (by simpa [State.a2] using ⟨hhdr, hdata⟩))

theorem exec_submitWrite_of_not_rangeOK (hr : rangeOK s.cfg s.larg1.toNat s.larg2.toNat = false) :
    exec .submitWrite s = .next (finish .eBus s) := by
  rw [exec_submitWrite_of_fits h24 hhdr hdata, if_pos (by simp [hr])]

theorem exec_submitWrite_of_rangeOK (hr : rangeOK s.cfg s.larg1.toNat s.larg2.toNat = true) :
    exec .submitWrite s =
      .next (submitTake false 0 0xB (Memory.read s.lmem s.larg1.toNat s.larg2.toNat) s) := by
  rw [exec_submitWrite_of_fits h24 hhdr hdata, if_neg (by simp [hr])]

end

section
variable (hhdr : s.managerHdrLen ≤ s.cfg.txHdrBuf) (hreply : expectedReplyLen s.cfg s.larg2.toNat ≤ s.cfg.rxBuf)
include hhdr hreply

/-- Past the checks of the lengths. -/
theorem exec_submitRead_of_fits :
    exec .submitRead s = .next
      (if !rangeOK s.cfg s.larg1.toNat s.larg2.toNat then finish .eBus s else submitTake true s.larg1 0x3 [] s) :=
  congrArg Host.Outcome.next <|
    (if_neg (by simp only [State.a2]; omega)).trans <|
      (if_neg (Nat.not_lt.mpr hhdr)).trans (if_neg (Nat.not_lt.mpr hreply))

theorem exec_submitRead_of_not_rangeOK (hr : rangeOK s.cfg s.larg1.toNat s.larg2.toNat = false) :
    exec .submitRead s = .next (finish .eBus s) := by
  rw [exec_submitRead_of_fits h24 hhdr hreply, if_pos (by simp [hr])]

theorem exec_submitRead_of_rangeOK (hr : rangeOK s.cfg s.larg1.toNat s.larg2.toNat = true) :
    exec .submitRead s = .next (submitTake true s.larg1 0x3 [] s) := by
  rw [exec_submitRead_of_fits h24 hhdr hreply, if_neg (by simp [hr])]

end

end

/-! ### The obligation -/

/-- Settles O44: the checks one after another, and then whether a slot and a descriptor are free. -/
theorem submitCommands : Obligations.SubmitCommands := by
  refine ⟨.of_decode rfl, .of_lookup .n rfl, .of_decode rfl, .of_lookup .n rfl, fun s hlink =>
    ⟨fun h => ⟨exec_submitWrite_of_long h, exec_submitRead_of_long h⟩, fun h24 =>
      ⟨exec_submitWrite_of_too_big h24, fun h => ?readTooBig, fun hhdr hdata =>
        ⟨exec_submitWrite_of_not_rangeOK h24 hhdr hdata, fun hr =>
          answers_of_submitTake (exec_submitWrite_of_rangeOK h24 hhdr hdata hr) hlink rfl (.inl rfl)⟩,
        fun hhdr hreply => ?read⟩⟩⟩
  case readTooBig => exact exec_submitRead_of_too_big h24 (by rwa [expectedReplyLen_eq])
  case read =>
    rw [← expectedReplyLen_eq] at hreply
    exact ⟨exec_submitRead_of_not_rangeOK h24 hhdr hreply, fun hr =>
      answers_of_submitTake (exec_submitRead_of_rangeOK h24 hhdr hreply hr) hlink rfl (.inr rfl)⟩

end Sys2Proof.Machine
end

section
/-! PROOFS. Draining (spec/43_translog.md R142 to R145): how a drain starts and ends, the drain step case by case, and
which bytes of local memory it can change. -/

namespace Sys2Proof.Machine

/-! ### A drain's start and end -/

theorem drainStep_of_empty {s : State} (hempty : rxHead s.rx = none) :
    (s.drainMode = .drain → drainStep s = finishWith .ok s.drainN s) ∧
      (s.drainMode = .pcount → drainStep s = finishWith .ok s.pend s) :=
  ⟨fun hm => by simp only [drainStep, hempty, hm], fun hm => by simp only [drainStep, hempty, hm]⟩

/-! ### What is done with the packet -/

section
variable {s : State} {i : Nat}

theorem drainPacket_of_cut (htr : (s.rx.at i).tr = true) :
    drainPacket i s = { s with parseErrs := s.parseErrs + 1 } :=
  if_pos htr

variable (htr : (s.rx.at i).tr = false)
include htr

theorem drainPacket_of_malformed {e : ParseFail}
    (hp : prs s.cfg s.ctrl.pcrc (s.rx.bytes i (s.rx.at i).size.toNat) = .error e) :
    drainPacket i s = { s with parseErrs := s.parseErrs + 1 } := by
  simp [drainPacket, htr, hp]

theorem drainPacket_of_parsed {r : Parsed}
    (hp : prs s.cfg s.ctrl.pcrc (s.rx.bytes i (s.rx.at i).size.toNat) = .ok r) :
    drainPacket i s = drainParsed r s := by
  simp [drainPacket, htr, hp]

end

/-- LONG_WARNS after a packet that may be longer than it needed (R102, R143). -/
def State.countLong (s : State) (long : Bool) : State :=
  { s with longWarns := if long then s.longWarns + 1 else s.longWarns }

section
variable {r : Parsed} {s : State}

theorem drainParsed_eq : drainParsed r s =
    if isCmd r.ib || !s.slotMatch r.tid.toNat then { s.countLong r.long with unmatched := s.unmatched + 1 }
    else drainMatched r (s.countLong r.long) := by
  cases hlong : r.long <;> simp [drainParsed, State.countLong, hlong]

theorem drainParsed_of_unmatched (h : isCmd r.ib = true ∨ s.slotMatch r.tid.toNat = false) :
    drainParsed r s = { s.countLong r.long with unmatched := s.unmatched + 1 } :=
  drainParsed_eq.trans (if_pos (by simpa using h))

theorem drainParsed_of_matched (hreply : isCmd r.ib = false) (hmatch : s.slotMatch r.tid.toNat = true) :
    drainParsed r s = drainMatched r (s.countLong r.long) :=
  drainParsed_eq.trans (if_neg (by simp [hreply, hmatch]))

/-- The slot of a matched reply, freed (R132). -/
theorem release_of_slotMatch {j : Nat} (hmatch : s.slotMatch j = true) :
    s.release j = { s with slots := s.slots.set j ⟨false, false, 0⟩, pend := s.pend - 1 } :=
  have ⟨hj, hused⟩ := (slotMatch_iff s j).mp hmatch
  release_used s j hj hused

theorem drainMatched_of_no_data (h : r.dlen = 0 ∨ (s.slot r.tid.toNat).hd = false) :
    drainMatched r s = s.release r.tid.toNat :=
  congrArg (State.release · r.tid.toNat) (if_neg (by simpa [or_iff_not_imp_left] using h))

variable (hdlen : r.dlen ≠ 0) (hd : (s.slot r.tid.toNat).hd = true)
include hdlen hd

theorem drainMatched_of_not_rangeOK (hr : rangeOK s.cfg (s.slot r.tid.toNat).laddr.toNat r.dlen.toNat = false) :
    drainMatched r s = { s with busErrs := s.busErrs + 1 }.release r.tid.toNat :=
  congrArg (State.release · r.tid.toNat)
    ((if_pos (by simpa [hd] using hdlen)).trans (if_neg (by simp [State.rangeOK, hr])))

theorem drainMatched_of_rangeOK (hr : rangeOK s.cfg (s.slot r.tid.toNat).laddr.toNat r.dlen.toNat = true) :
    drainMatched r s = (s.memWrite (s.slot r.tid.toNat).laddr.toNat r.payload).release r.tid.toNat :=
  congrArg (State.release · r.tid.toNat)
    ((if_pos (by simpa [hd] using hdlen)).trans (if_pos hr))

end

/-! ### The drain step, case by case -/

/-- RX_BYTES counts the packet in descriptor `i` (R143). -/
def State.countPacket (s : State) (i : Nat) : State :=
  { s with rxBytes := s.rxBytes + (s.rx.at i).size.setWidth 32 }

/-- What every drain step with a packet ready does: RX_BYTES and DRAIN_N grow and the descriptor is re-armed (R143). -/
def State.consume (s : State) (i : Nat) : State :=
  { s.countPacket i with rx := Machine.rxRearm s.rx s.ctrl.rxie, drainN := s.drainN + 1 }

section
variable {s : State} {i : Nat} (hready : rxHead s.rx = some i)
include hready

/-- Once the packet has been dealt with, its descriptor is re-armed and DRAIN_N grows. -/
theorem drainStep_of_drainPacket {t : State} (h : drainPacket i (s.countPacket i) = t) :
    drainStep s = { t with rx := rxRearm t.rx t.ctrl.rxie, drainN := t.drainN + 1 } := by
  rw [State.countPacket, ← wordOfNat_toNat] at h
  simp only [drainStep, hready, h]
  rfl

theorem drainStep_of_cut (htr : (s.rx.at i).tr = true) :
    drainStep s = { s.consume i with parseErrs := s.parseErrs + 1 } := by
  rw [drainStep_of_drainPacket hready (drainPacket_of_cut htr)]
  rfl

variable (htr : (s.rx.at i).tr = false)
include htr

theorem drainStep_of_malformed {e : ParseFail}
    (hp : prs s.cfg s.ctrl.pcrc (s.rx.bytes i (s.rx.at i).size.toNat) = .error e) :
    drainStep s = { s.consume i with parseErrs := s.parseErrs + 1 } := by
  rw [drainStep_of_drainPacket hready (drainPacket_of_malformed htr hp)]
  rfl

variable {r : Parsed} (hp : prs s.cfg s.ctrl.pcrc (s.rx.bytes i (s.rx.at i).size.toNat) = .ok r)
include hp

theorem drainStep_of_unmatched (h : isCmd r.ib = true ∨ s.slotMatch r.tid.toNat = false) :
    drainStep s = { (s.consume i).countLong r.long with unmatched := s.unmatched + 1 } := by
  rw [drainStep_of_drainPacket hready ((drainPacket_of_parsed (s := s.countPacket i) htr hp).trans
    (drainParsed_of_unmatched (s := s.countPacket i) h))]
  rfl

variable (hreply : isCmd r.ib = false) (hmatch : s.slotMatch r.tid.toNat = true)
include hreply hmatch

/-- Once a matched reply's payload has been dealt with, its slot is freed. -/
theorem drainStep_of_matched {u : State}
    (h : drainMatched r ((s.countPacket i).countLong r.long) = u.release r.tid.toNat)
    (hu : u.slotMatch r.tid.toNat = true) :
    drainStep s =
      { u with
        slots := u.slots.set r.tid.toNat ⟨false, false, 0⟩, pend := u.pend - 1, rx := rxRearm u.rx u.ctrl.rxie
        drainN := u.drainN + 1 } := by
  rw [drainStep_of_drainPacket hready ((drainPacket_of_parsed (s := s.countPacket i) htr hp).trans
    ((drainParsed_of_matched (s := s.countPacket i) hreply hmatch).trans (h.trans (release_of_slotMatch hu))))]

theorem drainStep_of_no_data (h : r.dlen = 0 ∨ (s.slot r.tid.toNat).hd = false) :
    drainStep s =
      { (s.consume i).countLong r.long with
        slots := s.slots.set r.tid.toNat ⟨false, false, 0⟩, pend := s.pend - 1 } :=
  drainStep_of_matched hready htr hp hreply hmatch
    (drainMatched_of_no_data (s := (s.countPacket i).countLong r.long) h) hmatch

variable (hdlen : r.dlen ≠ 0) (hd : (s.slot r.tid.toNat).hd = true)
include hdlen hd

theorem drainStep_of_not_rangeOK (hr : rangeOK s.cfg (s.slot r.tid.toNat).laddr.toNat r.dlen.toNat = false) :
    drainStep s =
      { (s.consume i).countLong r.long with
        slots := s.slots.set r.tid.toNat ⟨false, false, 0⟩, pend := s.pend - 1, busErrs := s.busErrs + 1 } :=
  drainStep_of_matched hready htr hp hreply hmatch
    (drainMatched_of_not_rangeOK (s := (s.countPacket i).countLong r.long) hdlen hd hr) hmatch

theorem drainStep_of_rangeOK (hr : rangeOK s.cfg (s.slot r.tid.toNat).laddr.toNat r.dlen.toNat = true) :
    drainStep s =
      { (s.consume i).countLong r.long with
        slots := s.slots.set r.tid.toNat ⟨false, false, 0⟩, pend := s.pend - 1
        lmem := Memory.write s.lmem (s.slot r.tid.toNat).laddr.toNat r.payload } :=
  drainStep_of_matched hready htr hp hreply hmatch
    (drainMatched_of_rangeOK (s := (s.countPacket i).countLong r.long) hdlen hd hr) hmatch

end

/-! ### The drain step and local memory -/

/-- What a drain step does to local memory: nothing, or the one store of a matched reply's payload (R143, R145). -/
inductive DrainStores (s : State) : Prop
  | nothing (h : (drainStep s).lmem = s.lmem)
  | payload (i : Nat) (r : Parsed) (hready : rxHead s.rx = some i)
      (hp : prs s.cfg s.ctrl.pcrc (s.rx.bytes i (s.rx.at i).size.toNat) = .ok r)
      (hmatch : s.slotMatch r.tid.toNat = true) (hd : (s.slot r.tid.toNat).hd = true)
      (hr : rangeOK s.cfg (s.slot r.tid.toNat).laddr.toNat r.dlen.toNat = true)
      (h : (drainStep s).lmem = Memory.write s.lmem (s.slot r.tid.toNat).laddr.toNat r.payload)

/-- A matched reply is stored where it has data, its slot a destination and that exists. -/
theorem drainStep_stores_of_matched {s : State} {i : Nat} {r : Parsed} (hready : rxHead s.rx = some i)
    (htr : (s.rx.at i).tr = false) (hp : prs s.cfg s.ctrl.pcrc (s.rx.bytes i (s.rx.at i).size.toNat) = .ok r)
    (hreply : isCmd r.ib = false) (hmatch : s.slotMatch r.tid.toNat = true) : DrainStores s := by
  by_cases hno : r.dlen = 0 ∨ (s.slot r.tid.toNat).hd = false
  · exact .nothing (by rw [drainStep_of_no_data hready htr hp hreply hmatch hno]; rfl)
  obtain ⟨hdlen, hd⟩ : r.dlen ≠ 0 ∧ (s.slot r.tid.toNat).hd = true := by simpa using hno
  cases hr : rangeOK s.cfg (s.slot r.tid.toNat).laddr.toNat r.dlen.toNat with
  | false => exact .nothing (by rw [drainStep_of_not_rangeOK hready htr hp hreply hmatch hdlen hd hr]; rfl)
  | true =>
    exact .payload i r hready hp hmatch hd hr (by rw [drainStep_of_rangeOK hready htr hp hreply hmatch hdlen hd hr])

theorem drainStep_stores (s : State) : DrainStores s := by
  cases hready : rxHead s.rx with
  | none =>
    obtain ⟨v, hend⟩ := drainStep_ended hready
    exact .nothing (by rw [hend]; rfl)
  | some i =>
    cases htr : (s.rx.at i).tr with
    | true => exact .nothing (by rw [drainStep_of_cut hready htr]; rfl)
    | false =>
      cases hp : prs s.cfg s.ctrl.pcrc (s.rx.bytes i (s.rx.at i).size.toNat) with
      | error e => exact .nothing (by rw [drainStep_of_malformed hready htr hp]; rfl)
      | ok r =>
        by_cases hun : isCmd r.ib = true ∨ s.slotMatch r.tid.toNat = false
        · exact .nothing (by rw [drainStep_of_unmatched hready htr hp hun]; rfl)
        · obtain ⟨hreply, hmatch⟩ : isCmd r.ib = false ∧ s.slotMatch r.tid.toNat = true := by simpa using hun
          exact drainStep_stores_of_matched hready htr hp hreply hmatch

/-- A packet that parses and matches no slot changes no slot, not PEND and no byte, whether or not it was cut (R145). -/
theorem drainStep_unmatched_keeps {s : State} {i : Nat} {r : Parsed} (hready : rxHead s.rx = some i)
    (hp : prs s.cfg s.ctrl.pcrc (s.rx.bytes i (s.rx.at i).size.toNat) = .ok r)
    (hmatch : s.slotMatch r.tid.toNat = false) :
    (drainStep s).slots = s.slots ∧ (drainStep s).pend = s.pend ∧ (drainStep s).lmem = s.lmem := by
  cases htr : (s.rx.at i).tr with
  | true =>
    rw [drainStep_of_cut hready htr]
    exact ⟨rfl, rfl, rfl⟩
  | false =>
    rw [drainStep_of_unmatched hready htr hp (.inr hmatch)]
    exact ⟨rfl, rfl, rfl⟩

/-! ### The obligations -/

/-- Settles O45: the two commands write the drain's mode and count alone, and every later turn is a drain step. -/
theorem drainStartAndEnd : Obligations.DrainStartAndEnd := by
  refine ⟨.of_decode rfl, .of_lookup .n rfl, .of_decode rfl, .of_lookup .n rfl, fun _ => rfl, fun _ => rfl,
    fun _ => coreTurn_drain, fun s hb hempty => ⟨fun hm => ?_, fun hm => ?_⟩⟩
  · rw [coreTurn_drain hb (by simp [hm]), (drainStep_of_empty hempty).1 hm]
  · rw [coreTurn_drain hb (by simp [hm]), (drainStep_of_empty hempty).2 hm]

/-- Settles O46: the step is split as the packet is cut, malformed, unmatched, or a matched reply, and that by its data
and its slot's destination; the bytes stored read back. -/
theorem drainStepCases : Obligations.DrainStepCases := by
  refine ⟨fun _ => drainStep_of_empty, fun s i hm hready => ⟨drainStep_of_cut hready,
    fun _ htr => drainStep_of_malformed hready htr, fun r htr hp => ⟨drainStep_of_unmatched hready htr hp,
      fun hreply hmatch => ⟨drainStep_of_no_data hready htr hp hreply hmatch, fun hdlen hd =>
        ⟨drainStep_of_not_rangeOK hready htr hp hreply hmatch hdlen hd, fun hr => ?stored⟩⟩⟩⟩⟩
  case stored =>
    rw [drainStep_of_rangeOK hready htr hp hreply hmatch hdlen hd hr]
    have hlen := payload_length hp
    exact ⟨rfl, hlen ▸ Memory.read_write hm _ _, fun a ha => Memory.readByte_write_of_outside hm (by rwa [hlen])⟩

/-- Settles O48: of the cases of a drain step only one stores, and it stores in the recorded range. -/
theorem noStaleWrite : Obligations.NoStaleWrite := by
  refine fun s hm => ⟨fun a hne => ?_, fun i r => drainStep_unmatched_keeps⟩
  cases drainStep_stores s with
  | nothing h => exact absurd (congrArg (Memory.readByte · a) h) hne
  | payload i r hready hp hmatch hd hr h =>
    obtain ⟨hj, hused⟩ := (slotMatch_iff ..).mp hmatch
    have hrange := Memory.mem_range_of_write_ne hm (h ▸ hne)
    exact ⟨i, _, r, hready, hp, rfl, hj, hused, hd, hr, payload_length hp ▸ hrange⟩

end Sys2Proof.Machine
end

section
/-! PROOFS. End to end (spec/43_translog.md R147): a SUBMIT_READ on an empty slot table, one packet received after
RX_INIT, and a PENDING_COUNT that consumes it. -/

namespace Sys2Proof.Machine

theorem acceptCommand_of_free {s : State} (hb : s.status.busy = false) (w : Word) :
    acceptCommand w s =
      { s with
        lcmd := w, larg0 := s.arg0, larg1 := s.arg1, larg2 := s.arg2
        status := { s.status with busy := true, ovr := false, warnLong := false } } :=
  if_neg (by simp [hb])

/-- A command written to CMD while the port is free runs in CORE's next turn (R27, R28). -/
theorem coreTurn_acceptCommand {w : Word} {i : Instr} (hw : decode w = .ok i) {s : State} (hb : s.status.busy = false)
    (hmode : s.drainMode = .none) : coreTurn (acceptCommand w s) = exec i (acceptCommand w s) := by
  rw [acceptCommand_of_free hb]
  exact RunsAs.of_decode hw _ rfl hmode rfl

/-! ### SUBMIT_READ on an empty table -/

theorem free_txReclaim_txInit {n : Nat} (hn : 1 ≤ n) (r : TxRing) : (txReclaim (txInit n r)).free ≠ [] := by
  have hfree : (txReclaim (txInit n r)).free = List.range n := by simp [txReclaim, txInit]
  rw [hfree, Ne, List.range_eq_nil]
  omega

/-- Where the checks pass and slot 0 and a descriptor are free, SUBMIT_READ takes slot 0 and writes the TX ring and its
count besides (R141). -/
theorem exec_submitRead_slot_zero {s : State} (hlink : LinkOk s) (hsize : s.slots.length = s.cfg.cSlots)
    (hpos : 0 < s.cfg.cSlots) (hslot : (s.slot 0).used = false) (htx : (txReclaim s.tx).free ≠ [])
    (h24 : s.larg2.toNat < 2 ^ 24) (hhdr : s.managerHdrLen ≤ s.cfg.txHdrBuf)
    (hreply : expectedReplyLen s.cfg s.larg2.toNat ≤ s.cfg.rxBuf)
    (hr : rangeOK s.cfg s.larg1.toNat s.larg2.toNat = true) :
    ∃ tx txBytes, exec .submitRead s = .next (finishWith .ok 0
      { s with
        tx := tx, txBytes := txBytes, slots := s.slots.set 0 ⟨true, true, s.larg1⟩, pend := s.pend + 1 }) := by
  have hgrab := grab_of_lowest hsize true s.larg1 hpos hslot fun k hk => absurd hk (Nat.not_lt_zero k)
  have hsubmit := exec_submitRead_of_rangeOK h24 hhdr hreply hr
  rw [submitTake_of_free hgrab hlink rfl (.inr rfl) htx] at hsubmit
  exact ⟨_, _, hsubmit⟩

/-! ### A packet received after RX_INIT -/

section
variable {s : State} {ie : Bool} {r : RxRing} (hwf : s.cfg.wf = true) (hrx : s.rx = rxInit s.cfg.nRx ie r)
include hwf hrx

/-- After RX_INIT the link's pointer and the busy queue's head stand at descriptor 0, which is armed (R119). -/
theorem pointer_of_rxInit :
    s.rx.lptr.toNat = 0 ∧ (s.rx.at 0).en = true ∧ ∃ rest, s.rx.busy = 0 :: rest := by
  obtain ⟨-, ⟨hn, -⟩, -⟩ := bounds_of_wf hwf
  obtain ⟨n, hn'⟩ : ∃ n, s.cfg.nRx = n + 1 := ⟨s.cfg.nRx - 1, by omega⟩
  refine ⟨by rw [hrx, rxInit_eq]; rfl, by rw [hrx, rxInit_at, if_pos (by omega)], ?_⟩
  exact ⟨_, by rw [hrx, rxInit_eq, hn', List.range_succ_eq_map]⟩

variable (hring : RxRingOk s)
include hring

theorem ready_of_rxInit : s.rx.ready = [] := by
  obtain ⟨-, hen, rest, hbusy⟩ := pointer_of_rxInit hwf hrx
  exact ready_nil_of_rxHead_none hring (by simp [rxHead, hbusy, hen])

/-- The first packet received after RX_INIT is the one packet ready, in descriptor 0, whole where it fits (R109). -/
theorem receive_of_rxInit {p : List Byte} (hp : p.length ≤ s.cfg.rxBuf) :
    (s.rx.receive s.cfg.rxBuf p).ready = [p] ∧ rxHead (s.rx.receive s.cfg.rxBuf p) = some 0 ∧
      ((s.rx.receive s.cfg.rxBuf p).at 0).tr = false := by
  obtain ⟨hptr, hen, hbusy⟩ := pointer_of_rxInit hwf hrx
  obtain ⟨-, ⟨hn, -⟩, -, -, -, -, hbuf⟩ := bounds_of_wf hwf
  have hat := RxRing.at_set s.rx (s.rx.receive s.cfg.rxBuf p) rfl (by rw [hptr, hring.descs]; omega) 0
  rw [hptr, if_pos rfl] at hat
  refine ⟨?ready, (rxHead_eq_some_iff ..).mpr ⟨hbusy, by rw [hat]⟩, by simp [hat, hp]⟩
  case ready =>
    rw [ready_receive hring (by omega) (by rwa [hptr]) p, ready_of_rxInit hwf hrx hring, List.take_of_length_le hp]
    rfl

end

/-! ### PENDING_COUNT with one packet ready -/

theorem rxHead_none_of_ready_nil {s : State} (hs : RxRingOk s) (h : s.rx.ready = []) : rxHead s.rx = none :=
  Option.eq_none_iff_forall_ne_some.mpr fun k hready => by simp [ready_rxRearm hs hready s.ctrl.rxie] at h

/-- PENDING_COUNT's drain with one packet ready, a matched reply whose payload has a destination: one turn stores the
payload, and the next finds nothing more (R143, R144). -/
theorem drain_one_reply {s : State} {p : List Byte} {r : Parsed} {i : Nat} (hring : RxRingOk s)
    (hm : Memory.wf s.lmem) (hb : s.status.busy = true) (hmode : s.drainMode = .pcount) (hready : rxHead s.rx = some i)
    (hone : s.rx.ready = [p]) (htr : (s.rx.at i).tr = false) (hp : prs s.cfg s.ctrl.pcrc p = .ok r)
    (hreply : isCmd r.ib = false) (hmatch : s.slotMatch r.tid.toNat = true) (hdlen : r.dlen ≠ 0)
    (hd : (s.slot r.tid.toNat).hd = true)
    (hr : rangeOK s.cfg (s.slot r.tid.toNat).laddr.toNat r.dlen.toNat = true) :
    ∃ t, coreTurns 2 s = .next t ∧ t.status.busy = false ∧ t.status.code = .ok ∧ t.result = s.pend - 1 ∧
      Memory.read t.lmem (s.slot r.tid.toNat).laddr.toNat r.dlen.toNat = r.payload := by
  obtain ⟨hbytes, hrest⟩ := List.cons.inj ((ready_rxRearm hring hready s.ctrl.rxie).symm.trans hone)
  have hempty : rxHead (rxRearm s.rx s.ctrl.rxie) = none := rxHead_none_of_ready_nil (hring.rxRearm hready) hrest
  have hstored := drainStep_of_rangeOK hready htr (hbytes ▸ hp) hreply hmatch hdlen hd hr
  have hfirst : coreTurn s = .next (drainStep s) := coreTurn_drain hb (by simp [hmode])
  have hdraining := drainStep_draining ⟨hb, by simp [hmode]⟩ hready
  have hsecond : coreTurn (drainStep s) = .next (finishWith .ok (drainStep s).pend (drainStep s)) := by
    rw [coreTurn_drain hdraining.1 hdraining.2]
    exact congrArg _ ((drainStep_of_empty (by rw [hstored]; exact hempty)).2 (by rw [hstored]; exact hmode))
  refine ⟨_, (runFor_succ hfirst 1).trans (runFor_succ hsecond 0), rfl, rfl, by rw [hstored]; rfl, ?_⟩
  rw [hstored]
  exact payload_length hp ▸ Memory.read_write hm _ _

/-- PENDING_COUNT with one packet ready, a matched reply whose payload has a destination: its own turn starts the drain
(R144). -/
theorem pendingCount_of_one_reply {s : State} {p : List Byte} {r : Parsed} {i : Nat} (hring : RxRingOk s)
    (hm : Memory.wf s.lmem) (hb : s.status.busy = false) (hmode : s.drainMode = .none) (hready : rxHead s.rx = some i)
    (hone : s.rx.ready = [p]) (htr : (s.rx.at i).tr = false) (hp : prs s.cfg s.ctrl.pcrc p = .ok r)
    (hreply : isCmd r.ib = false) (hmatch : s.slotMatch r.tid.toNat = true) (hdlen : r.dlen ≠ 0)
    (hd : (s.slot r.tid.toNat).hd = true)
    (hr : rangeOK s.cfg (s.slot r.tid.toNat).laddr.toNat r.dlen.toNat = true) :
    ∃ t, coreTurns 3 (acceptCommand 0x48000000#32 s) = .next t ∧ t.status.busy = false ∧ t.status.code = .ok ∧
      t.result = s.pend - 1 ∧ Memory.read t.lmem (s.slot r.tid.toNat).laddr.toNat r.dlen.toNat = r.payload := by
  have hstart : coreTurn (acceptCommand 0x48000000#32 s) =
      .next { acceptCommand 0x48000000#32 s with drainMode := .pcount, drainN := 0 } :=
    coreTurn_acceptCommand (i := .pendingCount) rfl hb hmode
  rw [coreTurns, runFor_succ hstart 2, acceptCommand_of_free hb]
  exact drain_one_reply (hring.congr rfl rfl) hm rfl rfl hready hone htr hp hreply hmatch hdlen hd hr

/-! ### The run of R147 -/

/-- After RX_INIT, one packet alone on the link, which parses as a matched reply with a destination for its data:
LINK_RX takes it, and PENDING_COUNT stores its payload. -/
theorem reply_after_rxInit {s : State} {ie : Bool} {r0 : RxRing} {p : List Byte} {r : Parsed} (hwf : s.cfg.wf = true)
    (hring : RxRingOk s) (hrx : s.rx = rxInit s.cfg.nRx ie r0) (hm : Memory.wf s.lmem) (hb : s.status.busy = false)
    (hmode : s.drainMode = .none) (hfits : p.length ≤ s.cfg.rxBuf) (hp : prs s.cfg s.ctrl.pcrc p = .ok r)
    (hreply : isCmd r.ib = false) (hmatch : s.slotMatch r.tid.toNat = true) (hdlen : r.dlen ≠ 0)
    (hd : (s.slot r.tid.toNat).hd = true)
    (hr : rangeOK s.cfg (s.slot r.tid.toNat).laddr.toNat r.dlen.toNat = true) :
    ∃ s4, takeTurn .linkRx { s with rxWire := [p] } = .next s4 ∧ ∃ s5,
      coreTurns 3 (acceptCommand 0x48000000#32 s4) = .next s5 ∧ s5.status.busy = false ∧ s5.status.code = .ok ∧
      s5.result = s.pend - 1 ∧ Memory.read s5.lmem (s.slot r.tid.toNat).laddr.toNat r.dlen.toNat = r.payload := by
  obtain ⟨hptr, hen, -⟩ := pointer_of_rxInit hwf hrx
  obtain ⟨-, -, -, -, -, -, hbuf⟩ := bounds_of_wf hwf
  replace hen : (s.rx.at s.rx.lptr.toNat).en = true := by rwa [hptr]
  obtain ⟨hone, hready, htr⟩ := receive_of_rxInit hwf hrx hring hfits
  have htake := (linkRxStep_enabled (s := { s with rxWire := [p] }) rfl hen).trans (if_neg (by omega))
  exact ⟨_, htake, pendingCount_of_one_reply ((hring.receive hwf hen p).congr rfl rfl) hm hb hmode hready hone htr hp
    hreply hmatch hdlen hd hr⟩

/-- After TX_INIT and RX_INIT the host's SUBMIT_READ of 4 bytes from 0x1000 to `buf` has been accepted. -/
def readAccepted (s0 : State) (buf : Word) : State :=
  { s0 with
    status := { s0.status with code := .ok, busy := true, warnLong := false, ovr := false }
    drainMode := .none
    tx := txInit s0.cfg.nTx s0.tx
    rx := rxInit s0.cfg.nRx s0.ctrl.rxie s0.rx
    lcmd := 0x46000000, arg0 := 0x1000, arg1 := buf, arg2 := 4, larg0 := 0x1000, larg1 := buf, larg2 := 4 }

/-- That SUBMIT_READ has taken slot 0 of an empty table, whatever it wrote to the TX ring. -/
def readSubmitted (s0 : State) (buf : Word) (tx : TxRing) (txBytes : Word) : State :=
  finishWith .ok 0
    { readAccepted s0 buf with
      tx := tx, txBytes := txBytes, slots := s0.slots.set 0 ⟨true, true, buf⟩, pend := s0.pend + 1 }

theorem cSlots_pos_of_wf {c : Config} (h : c.wf = true) : 0 < c.cSlots := by
  simp only [Config.wf, Config.slotsOk, Bool.and_eq_true, decide_eq_true_eq] at h
  omega

theorem coreTurn_readAccepted {s0 : State} {buf : Word} (hs : Inv s0) (hslot : (s0.slot 0).used = false)
    (hhdr : s0.link.pathLen.toNat + s0.link.rpathLen.toNat + 15 ≤ s0.cfg.txHdrBuf)
    (hreply : 16 + s0.cfg.replyRsvd.toNat ≤ s0.cfg.rxBuf) (hr : rangeOK s0.cfg buf.toNat 4 = true) :
    ∃ tx txBytes, coreTurn (readAccepted s0 buf) = .next (readSubmitted s0 buf tx txBytes) := by
  obtain ⟨⟨hn, -⟩, -⟩ := bounds_of_wf hs.config
  have hreplyLen : expectedReplyLen s0.cfg 4 ≤ s0.cfg.rxBuf := by
    rw [expectedReplyLen_eq, if_pos (by decide)]
    omega
  have hturn : coreTurn (readAccepted s0 buf) = exec .submitRead (readAccepted s0 buf) :=
    RunsAs.of_decode (w := 0x46000000) rfl _ rfl rfl rfl
  obtain ⟨tx, txBytes, hsubmit⟩ := exec_submitRead_slot_zero (s := readAccepted s0 buf) hs.link hs.slots.size
    (cSlots_pos_of_wf hs.config) hslot (free_txReclaim_txInit hn s0.tx) (show (4 : Word).toNat < 2 ^ 24 by decide) hhdr
    hreplyLen hr
  exact ⟨tx, txBytes, hturn.trans hsubmit⟩

/-! ### The obligation -/

/-- Settles O50: slot 0 is taken with the destination, the reply stands in descriptor 0, and the drain's one packet is
stored there. -/
theorem endToEndRead : Obligations.EndToEndRead := by
  intro s0 s1 s2 buf p r hs _ hfree htx hrx hhdr hreply hrange hfits hp hib htid hdlen hpayload
  cases htx
  cases hrx
  obtain ⟨-, ⟨hn, -⟩, -⟩ := bounds_of_wf hs.config
  obtain ⟨hslots, hpend⟩ := hs.slots.empty hfree
  have hpos := cSlots_pos_of_wf hs.config
  have hslot : (s0.slot 0).used = false := by simp [State.slot, hslots, hpos, Slot.idle]
  obtain ⟨tx, txBytes, hsubmit⟩ := coreTurn_readAccepted hs hslot hhdr hreply hrange
  have hring : RxRingOk (readSubmitted s0 buf tx txBytes) := (hs.rx.rxInit hn s0.ctrl.rxie).congr rfl rfl
  have hzero : (readSubmitted s0 buf tx txBytes).slot r.tid.toNat = ⟨true, true, buf⟩ := by
    rw [htid, slot_of_set (s := s0) rfl (hs.slots.size ▸ hpos)]
    rfl
  have hone : (readSubmitted s0 buf tx txBytes).pend = 1 := by
    rw [readSubmitted, finishWith_pend, hpend]
    rfl
  have hmatch : (readSubmitted s0 buf tx txBytes).slotMatch r.tid.toNat = true :=
    (slotMatch_iff ..).mpr ⟨htid ▸ hpos, by rw [hzero]⟩
  obtain ⟨s4, hlink, s5, hcount, hbusy, hcode, hresult, hread⟩ := reply_after_rxInit
    (s := readSubmitted s0 buf tx txBytes) hs.config hring rfl hs.memory.canonical rfl rfl hfits hp
    (by rw [hib]; decide) hmatch (by rw [hdlen]; decide) (by rw [hzero]) (by rw [hzero, hdlen]; exact hrange)
  rw [hzero, hdlen, hpayload] at hread
  rw [acceptCommand_of_free rfl]
  exact ⟨readSubmitted s0 buf tx txBytes, s4, s5, hsubmit, rfl, rfl, hone, hlink, hcount, hbusy, hcode,
    by rw [hresult, hone]; decide, hread⟩

end Sys2Proof.Machine
end

section
/-! PROOFS. How commands finish (spec/60_exceptions.md R148, R149): the code each may write, and what a command that fails
has changed. -/

namespace Sys2Proof.Machine

/-! ### The ways to finish -/

theorem ok_mem_codesOf (i : Instr) : Code.ok ∈ codesOf i := by
  cases i <;> exact List.mem_cons_self

/-- The slot a SUBMIT takes: its HD flag and its recorded address (R140, R141). -/
def SubmitsWith (i : Instr) (s : State) (hd : Bool) (a : Word) : Prop :=
  (i = .submitWrite ∧ hd = false ∧ a = 0) ∨ (i = .submitRead ∧ hd = true ∧ a = s.larg1)

/-- What a command that finishes can leave, with the code it writes (R148, R149). -/
inductive Finishes (i : Instr) (s : State) : State → Prop
  /-- The command did its work, which raises and clears no interrupt bit (R155). -/
  | done {u : State} (hirq : u.irq = s.irq) : Finishes i s (finish .ok u)
  /-- No packet is ready, which is no error (R121 to R123). -/
  | idle (v : Word) (hc : .none ∈ codesOf i := by simp [codesOf]) : Finishes i s (finishWith .none v s)
  /-- A check failed before anything was written. -/
  | failed {c : Code} (hc : c ∈ codesOf i := by simp [codesOf]) : Finishes i s (finish c s)
  /-- TX_ENQUEUE found no free descriptor, after it reclaimed (R120). -/
  | noDesc {hlen ncl : Byte} (hi : i = .txEnqueue hlen ncl) : Finishes i s (finish .eNodesc s.txReclaim)
  /-- A SUBMIT found no free descriptor, after it took its slot and reclaimed (R140, R141). -/
  | noDescForSlot {hd : Bool} {a : Word} {j : Nat} {u : State} (hi : SubmitsWith i s hd a)
      (hg : s.grab hd a = some (j, u)) : Finishes i s (finishWith .eNodesc (wordOfNat j) u.txReclaim)

namespace Finishes

variable {i : Instr} {s a b : State}

theorem ite {p : Prop} [Decidable p] (ht : Finishes i s a) (hf : Finishes i s b) : Finishes i s (if p then a else b) := by
  split
  · exact ht
  · exact hf

/-- A check of the command fails, or it goes on. -/
theorem check {p : Prop} [Decidable p] {c : Code} (hb : Finishes i s b) (hc : c ∈ codesOf i := by simp [codesOf]) :
    Finishes i s (if p then finish c s else b) :=
  .ite (.failed hc) hb

/-- What a SUBMIT leaves once it has its slot. -/
theorem submitSend {hd : Bool} {x : Word} {j : Nat} {u : State} (hi : SubmitsWith i s hd x)
    (hg : s.grab hd x = some (j, u)) (code : BitVec 4) (bytes : List Byte) : Finishes i s (submitSend code bytes j u) := by
  refine .ite (.noDescForSlot hi hg) (.done ?_)
  obtain ⟨-, -, -, rfl⟩ := grab_some s hd x hg
  rfl

/-! ### What every way to finish has in common -/

theorem code_mem {t : State} (h : Finishes i s t) : t.status.code ∈ codesOf i := by
  cases h with
  | done => exact ok_mem_codesOf i
  | idle _ hc => exact hc
  | failed hc => exact hc
  | noDesc hi => simp [hi, codesOf]
  | noDescForSlot hi => obtain ⟨rfl, -⟩ | ⟨rfl, -⟩ := hi <;> simp [codesOf]

theorem irq_eq {t : State} (h : Finishes i s t) : t.irq = s.irq := by
  cases h with
  | done hirq => exact hirq
  | noDescForSlot _ hg => obtain ⟨-, -, -, rfl⟩ := grab_some s _ _ hg; rfl
  | _ => rfl

end Finishes

/-! ### The commands -/

theorem execPktGet_finishes (sel : BitVec 4) (idx : Byte) (s : State) :
    ∃ t, exec (.pktGet sel idx) s = .next t ∧ Finishes (.pktGet sel idx) s t := by
  refine ⟨_, rfl, ?_⟩
  split
  · exact .failed
  · exact .done rfl

theorem execParse_finishes (s : State) : ∃ t, exec .parse s = .next t ∧ Finishes .parse s t := by
  refine ⟨_, rfl, .check ?_⟩
  split
  case h_1 => exact .failed
  case h_2 r _ => exact .check (.done (by cases r.long <;> rfl))

theorem execRxPoll_finishes (s : State) : ∃ t, exec .rxPoll s = .next t ∧ Finishes .rxPoll s t := by
  refine ⟨_, rfl, ?_⟩
  split
  · exact .idle 0
  · exact .done rfl

theorem execRxFetch_finishes (s : State) : ∃ t, exec .rxFetch s = .next t ∧ Finishes .rxFetch s t := by
  refine ⟨_, rfl, ?_⟩
  split
  · exact .idle 0
  · exact .check (.done rfl)

theorem execRxDrop_finishes (s : State) : ∃ t, exec .rxDrop s = .next t ∧ Finishes .rxDrop s t := by
  refine ⟨_, rfl, ?_⟩
  split
  · exact .idle 0
  · exact .done rfl

theorem execTlGrab_finishes (hd : Bool) (s : State) :
    ∃ t, exec (.tlGrab hd) s = .next t ∧ Finishes (.tlGrab hd) s t := by
  refine ⟨_, rfl, ?_⟩
  split
  case h_1 => exact .failed
  case h_2 j u hg =>
    obtain ⟨-, -, -, rfl⟩ := grab_some s hd s.larg0 hg
    exact .done rfl

theorem execTlRelease_finishes (id : BitVec 16) (s : State) :
    ∃ t, exec (.tlRelease id) s = .next t ∧ Finishes (.tlRelease id) s t := by
  obtain ⟨slots, pend, h⟩ := release_frame s id.toNat
  exact ⟨_, rfl, .done (by rw [h])⟩

theorem execTlReset_finishes (s : State) : ∃ t, exec .tlReset s = .next t ∧ Finishes .tlReset s t := by
  obtain ⟨slots, pend, h⟩ := releaseAll_frame s
  exact ⟨_, rfl, .done (by rw [h])⟩

theorem execSubmitWrite_finishes (s : State) : ∃ t, exec .submitWrite s = .next t ∧ Finishes .submitWrite s t := by
  refine ⟨_, rfl, .check (.check (.check ?_))⟩
  split
  case h_1 => exact .failed
  case h_2 j u hg => exact .submitSend (.inl ⟨rfl, rfl, rfl⟩) hg _ _

theorem execSubmitRead_finishes (s : State) : ∃ t, exec .submitRead s = .next t ∧ Finishes .submitRead s t := by
  refine ⟨_, rfl, .check (.check (.check (.check ?_)))⟩
  split
  case h_1 => exact .failed
  case h_2 j u hg => exact .submitSend (.inr ⟨rfl, rfl, rfl⟩) hg _ _

/-- What any command but the two that start a drain leaves. -/
theorem exec_finishes {i : Instr} (s : State) (hdrain : i ≠ .drain) (hpcount : i ≠ .pendingCount) :
    ∃ t, exec i s = .next t ∧ Finishes i s t := by
  cases i with
  | pktClear | pktSetDst | pktSetSrc | pktSetKey | pktSetReply | pktSetTid | pktSetAddr | txInit | rxInit | ringStat |
    linkLoad => exact ⟨_, rfl, .done rfl⟩
  | crc8 | pktSetCmd | pktSetDlen | hdrSize => exact ⟨_, rfl, .check (.done rfl)⟩
  | pktSetPath | pktSetRpath | serialize => exact ⟨_, rfl, .check (.check (.done rfl))⟩
  | pktGet sel idx => exact execPktGet_finishes sel idx s
  | parse => exact execParse_finishes s
  | txEnqueue => exact ⟨_, rfl, .check (.check (.check (.ite (.noDesc rfl) (.done rfl))))⟩
  | rxPoll => exact execRxPoll_finishes s
  | rxFetch => exact execRxFetch_finishes s
  | rxDrop => exact execRxDrop_finishes s
  | descRead idx ring word => cases ring <;> exact ⟨_, rfl, .check (.done rfl)⟩
  | tlGrab hd => exact execTlGrab_finishes hd s
  | tlRelease id => exact execTlRelease_finishes id s
  | tlQuery => exact ⟨_, rfl, .check (.ite (.done rfl) (.done rfl))⟩
  | tlReset => exact execTlReset_finishes s
  | submitWrite => exact execSubmitWrite_finishes s
  | submitRead => exact execSubmitRead_finishes s
  | drain => exact absurd rfl hdrain
  | pendingCount => exact absurd rfl hpcount

theorem Finishes.of_exec {i : Instr} {s t : State} (hdrain : i ≠ .drain) (hpcount : i ≠ .pendingCount)
    (h : exec i s = .next t) : Finishes i s t := by
  obtain ⟨u, hu, hfin⟩ := exec_finishes s hdrain hpcount
  obtain rfl : u = t := by simpa [hu] using h
  exact hfin

/-! ### The drain step -/

/-- With a packet ready the drain goes on: STATUS stays (R143). -/
theorem drainStep_status_of_ready {s : State} {k : Nat} (hready : rxHead s.rx = some k) :
    (drainStep s).status = s.status := by
  rw [drainStep_consumed hready]

/-! ### The obligations -/

/-- Settles O14: by the ways a command finishes, of which E_NODESC alone writes anything besides STATUS. -/
theorem errorsChangeOnlyStatus : Obligations.ErrorsChangeOnlyStatus := by
  intro i s t hdrain hpcount hd h hok hnone
  cases Finishes.of_exec hdrain hpcount h with
  | done => exact absurd rfl hok
  | idle => exact absurd rfl hnone
  | failed => exact .inl (finish_of_drainMode_none hd _)
  | noDesc hi => exact .inr ⟨rfl, .inl ⟨_, _, hi, finish_of_drainMode_none (s := s.txReclaim) hd _⟩⟩
  | @noDescForSlot _ _ j u hi hg =>
    refine .inr ⟨rfl, .inr ⟨_, _, j, u, hi, hg, ?_⟩⟩
    obtain ⟨-, -, -, hu⟩ := grab_some s _ _ hg
    have hdu : u.drainMode = .none := (congrArg State.drainMode hu).trans hd
    rw [finishWith, finish_of_drainMode_none (s := { u.txReclaim with result := wordOfNat j }) hdu, hu]
    rfl

/-- Settles O15: the values by definition, each command's codes by the ways it finishes, and a drain's by its last step,
the one that finds no packet ready. -/
theorem completionCodes : Obligations.CompletionCodes := by
  refine ⟨⟨rfl, rfl, rfl, rfl, rfl, rfl, rfl, rfl, rfl⟩,
    fun i s t hdrain hpcount h => (Finishes.of_exec hdrain hpcount h).code_mem, fun s hbusy hfree => ?drain⟩
  case drain =>
    cases hready : rxHead s.rx with
    | none =>
      obtain ⟨v, hend⟩ := drainStep_ended hready
      rw [hend]
      rfl
    | some k =>
      rw [drainStep_status_of_ready hready, hbusy] at hfree
      cases hfree

end Sys2Proof.Machine
end

section
/-! PROOFS. The interrupt bits (spec/60_exceptions.md R154, R155, spec/10_state.md R23): what each turn does to them. -/

namespace Sys2Proof.Machine

/-! ### CORE -/

theorem exec_irq {i : Instr} {s t : State} (h : exec i s = .next t) : t.irq = s.irq := by
  by_cases hi : i = .drain ∨ i = .pendingCount
  · obtain rfl | rfl := hi
    all_goals
      cases h
      rfl
  · obtain ⟨hdrain, hpcount⟩ := not_or.mp hi
    exact (Finishes.of_exec hdrain hpcount h).irq_eq

theorem drainStep_irq (s : State) : (drainStep s).irq = s.irq := by
  cases hready : rxHead s.rx with
  | none =>
    obtain ⟨v, hend⟩ := drainStep_ended hready
    rw [hend, finishWith_irq]
  | some k => rw [drainStep_consumed hready]

/-- CORE raises and clears no interrupt bit (R155). -/
theorem coreTurn_irq {s t : State} (h : coreTurn s = .next t) : t.irq = s.irq := by
  cases hb : s.status.busy with
  | false =>
    obtain rfl : s = t := by simpa [coreTurn_idle hb] using h
    rfl
  | true =>
    by_cases hd : s.drainMode = .none
    · cases hw : decode s.lcmd with
      | error e =>
        obtain rfl : finish .eBadop s = t := by simpa [coreTurn_reject hb hd hw] using h
        rfl
      | ok i => exact exec_irq ((coreTurn_command hb hd hw).symm.trans h)
    · obtain rfl : drainStep s = t := by simpa [coreTurn_drain hb hd] using h
      exact drainStep_irq s

/-! ### HOST -/

theorem eq_of_regAt_irqStat {off : Nat} (h : regAt off = .irqStat) : off = 0x1C := by
  unfold regAt at h
  split at h <;> cases h
  rfl

/-- IRQ_STAT is reached at its own address alone, by an access of 32 bits (R18, R19). -/
theorem windowReg_irqStat {c : Config} {addr : Nat} {width : AccessWidth} (h : windowReg c addr width = .ok .irqStat) :
    addr = c.mmioBase + 0x1C ∧ width = .w32 := by
  unfold windowReg at h
  split at h
  case isTrue => cases h
  case isFalse hin =>
    split at h
    case isTrue => cases h
    case isFalse hform =>
      have hoff := eq_of_regAt_irqStat (Except.ok.inj h)
      simp only [Bool.or_eq_true, decide_eq_true_eq, bne_iff_ne, not_or, not_not] at hin hform
      exact ⟨by omega, hform.1⟩

theorem regWrite_irq {r : Reg} (hr : r ≠ .irqStat) (s : State) (v : Word) : (regWrite s v r).irq = s.irq := by
  cases r with
  | irqStat => exact absurd rfl hr
  | cmd =>
    simp only [regWrite, acceptCommand]
    split <;> rfl
  | _ => rfl

/-- A bit of IRQ_STAT stays 1 under a write, or is written as 1 (R23). -/
theorem stays_or_written : ∀ bit written : Bool, bit = true → (bit && !written) = true ∨ written = true := by decide

/-- HOST leaves the interrupt bits, or clears those it writes as 1 to IRQ_STAT (R23). -/
theorem hostStep_irq {act : HostAct} {s t : State} (h : hostStep act s = .next t) :
    t.irq = s.irq ∨ ∃ v, act = .writeReg (s.cfg.mmioBase + 0x1C) .w32 v ∧ t.irq = s.irq.clear v := by
  cases act with
  | writeReg addr width v =>
    cases hr : windowReg s.cfg addr width with
    | error e => simp [hostStep, hr] at h
    | ok r =>
      obtain rfl : regWrite s v r = t := by simpa [hostStep, hr] using h
      by_cases hirq : r = .irqStat
      · subst hirq
        obtain ⟨rfl, rfl⟩ := windowReg_irqStat hr
        exact .inr ⟨v, rfl, rfl⟩
      · exact .inl (regWrite_irq hirq s v)
  | readReg | readMem | writeMem =>
    simp only [hostStep] at h
    split at h <;> cases h
    exact .inl rfl

/-! ### Any turn -/

/-- What a turn can do to the interrupt bits. -/
inductive IrqAfter (turn : Turn) (s t : State) : Prop
  | kept (h : t.irq = s.irq)
  /-- LINK_TX completes a descriptor (R107). -/
  | sent (hturn : turn = .linkTx) (hen : (s.tx.at s.tx.lptr.toNat).en = true)
      (h : t.irq = { s.irq with txi := s.irq.txi || (s.tx.at s.tx.lptr.toNat).ie })
  /-- LINK_RX completes a descriptor (R109). -/
  | received (hturn : turn = .linkRx) (hen : (s.rx.at s.rx.lptr.toNat).en = true)
      (h : t.irq = { s.irq with rxi := s.irq.rxi || (s.rx.at s.rx.lptr.toNat).ie })
  /-- HOST writes IRQ_STAT (R23). -/
  | cleared (v : Word) (hturn : turn = .host (.writeReg (s.cfg.mmioBase + 0x1C) .w32 v)) (h : t.irq = s.irq.clear v)
  /-- The reset event (R163). -/
  | reset (hturn : turn = .reset) (h : t.irq = ⟨false, false⟩)

theorem takeTurn_irqAfter {turn : Turn} {s t : State} (h : takeTurn turn s = .next t) : IrqAfter turn s t := by
  cases turn with
  | host act =>
    obtain hkept | ⟨v, rfl, hclear⟩ := hostStep_irq h
    · exact .kept hkept
    · exact .cleared v rfl hclear
  | core => exact .kept (coreTurn_irq h)
  | linkTx =>
    obtain rfl : linkTxStep s = t := by simpa using h
    cases hen : (s.tx.at s.tx.lptr.toNat).en with
    | false => exact .kept (by rw [linkTxStep_waiting hen])
    | true => exact .sent rfl hen (by simp [linkTxStep, hen])
  | linkRx =>
    obtain rfl | ⟨p, wire, -, hen, -, rfl⟩ := linkRxStep_cases h
    · exact .kept rfl
    · exact .received rfl hen rfl
  | arrive p =>
    obtain rfl : arrival p s = t := by simpa [arrival] using h
    exact .kept rfl
  | reset =>
    obtain rfl : resetEvent s = t := by simpa using h
    exact .reset rfl rfl

/-! ### The obligation -/

/-- Settles O16: CORE's turn keeps the bits, and of what any turn can do only the links' completions set one, and only a
host write and reset clear one. -/
theorem interruptSources : Obligations.InterruptSources := by
  intro turn s t h
  have hcore : turn = .core → t.irq = s.irq := fun hturn => coreTurn_irq (by simpa [hturn] using h)
  have hline : t.irqLine = true ↔ t.irq.txi = true ∨ t.irq.rxi = true := Bool.or_eq_true_iff
  cases takeTurn_irqAfter h with
  | kept hq =>
    rw [hq] at hcore hline ⊢
    exact ⟨hcore, .inl, .inl, .inl, .inl, hline⟩
  | sent hturn hen hq =>
    rw [hq] at hcore hline ⊢
    exact ⟨hcore, fun ht => (Bool.or_eq_true_iff.mp ht).imp_right fun hie => ⟨hturn, hen, hie⟩, .inl,
      fun hs => .inl (Bool.or_eq_true_iff.mpr (.inl hs)), .inl, hline⟩
  | received hturn hen hq =>
    rw [hq] at hcore hline ⊢
    exact ⟨hcore, .inl, fun ht => (Bool.or_eq_true_iff.mp ht).imp_right fun hie => ⟨hturn, hen, hie⟩, .inl,
      fun hs => .inl (Bool.or_eq_true_iff.mpr (.inl hs)), hline⟩
  | cleared v hturn hq =>
    rw [hq] at hcore hline ⊢
    exact ⟨hcore, fun ht => .inl (Bool.and_eq_true_iff.mp ht).1, fun ht => .inl (Bool.and_eq_true_iff.mp ht).1,
      fun hs => (stays_or_written _ _ hs).imp_right fun hv => .inr ⟨v, hturn, hv⟩,
      fun hs => (stays_or_written _ _ hs).imp_right fun hv => .inr ⟨v, hturn, hv⟩, hline⟩
  | reset hturn hq =>
    rw [hq] at hcore hline ⊢
    exact ⟨hcore, nofun, nofun, fun _ => .inr (.inl hturn), fun _ => .inr (.inl hturn), hline⟩

end Sys2Proof.Machine
end

section
/-! PROOFS. The reset event (spec/70_reset_and_hazards.md R163, R164): the rings it leaves, descriptor by descriptor, and
every other element of the state. -/

namespace Sys2Proof.Machine

theorem TxRing.reset_desc_length (c : Config) : (TxRing.reset c).desc.length = c.nTx := by simp [TxRing.reset]

theorem RxRing.reset_desc_length (c : Config) : (RxRing.reset c).desc.length = c.nRx := by simp [RxRing.reset]

theorem TxRing.reset_at {c : Config} {i : Nat} (hi : i < c.nTx) :
    (TxRing.reset c).at i = TxDesc.reset (i + 1 == c.nTx) := by
  rw [TxRing.at_of_desc_range (r := TxRing.reset c) rfl, if_pos hi]

theorem RxRing.reset_at {c : Config} {i : Nat} (hi : i < c.nRx) :
    (RxRing.reset c).at i = RxDesc.reset (i + 1 == c.nRx) := by
  rw [RxRing.at_of_desc_range (r := RxRing.reset c) rfl, if_pos hi]

/-- TX_INIT gives the ring its values of R164 once more (R118). -/
theorem txInit_reset (c : Config) : txInit c.nTx (TxRing.reset c) = TxRing.reset c := rfl

theorem resetEvent_tx (s : State) : (resetEvent s).tx = TxRing.reset s.cfg := rfl

theorem resetEvent_rx (s : State) : (resetEvent s).rx = RxRing.reset s.cfg := rfl

theorem exec_txInit (s : State) :
    exec .txInit s = .next (finish .ok { s with tx := txInit s.cfg.nTx s.tx }) := rfl

/-- After reset TX_INIT changes nothing but STATUS. -/
theorem exec_txInit_resetEvent (s : State) : exec .txInit (resetEvent s) = .next (finish .ok (resetEvent s)) := by
  have hring : txInit (resetEvent s).cfg.nTx (resetEvent s).tx = (resetEvent s).tx := by
    rw [resetEvent_cfg, resetEvent_tx, txInit_reset]
  rw [exec_txInit, hring]

/-- Settles O53: the rings are those of `TxRing.reset` and `RxRing.reset`, which TX_INIT keeps; every other element is
assigned by the reset event itself. -/
theorem resetEvent_values : Obligations.ResetEvent := by
  intro s
  have htx : ∀ i, i < s.cfg.nTx → (resetEvent s).tx.at i = TxDesc.reset (i + 1 == s.cfg.nTx) := fun i hi => by
    rw [resetEvent_tx, TxRing.reset_at hi]
  have hrx : ∀ i, i < s.cfg.nRx → (resetEvent s).rx.at i = RxDesc.reset (i + 1 == s.cfg.nRx) := fun i hi => by
    rw [resetEvent_rx, RxRing.reset_at hi]
  refine ⟨resetEvent s, takeTurn_reset s, ?_⟩
  refine ⟨resetEvent_cfg s, resetEvent_lmem s, resetEvent_txOut s, resetEvent_rxWire s, resetEvent_hostRegs s,
    resetEvent_hostMem s, resetEvent_sched s, resetEvent_again s, ?_⟩
  -- The latches, the registers, the drain, PKT and L.
  refine ⟨rfl, rfl, rfl, rfl, rfl, rfl, rfl, rfl, rfl, rfl, rfl, rfl, rfl, rfl, rfl, rfl, rfl, rfl, rfl, rfl, rfl, rfl, ?_⟩
  -- The rings, the slots and PEND.
  exact ⟨TxRing.reset_desc_length s.cfg, htx, RxRing.reset_desc_length s.cfg, hrx, rfl, rfl, rfl, rfl, rfl, rfl, rfl, rfl,
    exec_txInit_resetEvent s⟩

end Sys2Proof.Machine
end
